-- ==== Sys2Proof/Word.lean ====
section
/-! DEFINITION. The types of the values the spec names: bytes, 16-bit words, display rows, instruction
fields and register numbers (00_scope.md R4, R6; 30_encoding.md R51). -/

namespace Sys2Proof

/-- An 8-bit unsigned value: a general register, a timer, a memory byte (10_state.md R10). -/
abbrev Byte := BitVec 8

/-- A 16-bit unsigned value: pc, I, a return address, an instruction word (10_state.md R13 to R15). -/
abbrev Word := BitVec 16

/-- A display row: 64 pixels, bit c is column c (10_state.md R19). -/
abbrev Row := BitVec 64

/-- The 12-bit field `nnn` (30_encoding.md R51). -/
abbrev Addr12 := BitVec 12

/-- A 4-bit field (30_encoding.md R51). -/
abbrev Nibble := BitVec 4

/-- A general register's number: "register indices are always valid by construction" (10_state.md R10). -/
abbrev Reg := Fin 16

/-- The register VF, index 0xF (10_state.md R11). -/
abbrev VF : Reg := 15

/-- The register V0, which Bnnn reads implicitly (41_control.md R78). -/
abbrev V0 : Reg := 0

/-- `bit(c)` of 00_scope.md R6, as a register value. -/
def bit (c : Bool) : Byte := if c then 1#8 else 0#8

end Sys2Proof
end

