-- ==== Sys2Proof/Syntax.lean ====
section
/-! DEFINITION. The instructions: one constructor per row of spec/opcode_table.json, in the table's order
(30_encoding.md R54, R57). A field is the encoding's field of the same name (R51); the no-op rows and SYS
keep their don't-care bits, so that an instruction determines its word. -/

namespace Sys2Proof

/-- The instruction set of 30_encoding.md R54. -/
inductive Instr where
  /-- 00E0 `CLS` (44_display.md R120). -/
  | cls
  /-- 00EE `RET` (41_control.md R71). -/
  | ret
  /-- 0nnn `SYS nnn`, any word of family 0 but 00E0 and 00EE (41_control.md R70). -/
  | sys (nnn : Addr12)
  /-- 1nnn `JP nnn` (41_control.md R72). -/
  | jp (nnn : Addr12)
  /-- 2nnn `CALL nnn` (41_control.md R73). -/
  | call (nnn : Addr12)
  /-- 3xnn `SE Vx,nn` (41_control.md R74). -/
  | seImm (x : Reg) (nn : Byte)
  /-- 4xnn `SNE Vx,nn` (41_control.md R75). -/
  | sneImm (x : Reg) (nn : Byte)
  /-- 5xy0 `SE Vx,Vy` (41_control.md R76). -/
  | seReg (x y : Reg)
  /-- 5xyn with n ≠ 0, a no-op (40_pipeline.md R63). -/
  | nop5 (x y : Reg) (n : Nibble)
  /-- 6xnn `LD Vx,nn` (42_alu.md R90). -/
  | ldImm (x : Reg) (nn : Byte)
  /-- 7xnn `ADD Vx,nn` (42_alu.md R91). -/
  | addImm (x : Reg) (nn : Byte)
  /-- 8xy0 `LD Vx,Vy` (42_alu.md R92). -/
  | ldReg (x y : Reg)
  /-- 8xy1 `OR Vx,Vy` (42_alu.md R93). -/
  | orReg (x y : Reg)
  /-- 8xy2 `AND Vx,Vy` (42_alu.md R94). -/
  | andReg (x y : Reg)
  /-- 8xy3 `XOR Vx,Vy` (42_alu.md R95). -/
  | xorReg (x y : Reg)
  /-- 8xy4 `ADD Vx,Vy` (42_alu.md R96). -/
  | addReg (x y : Reg)
  /-- 8xy5 `SUB Vx,Vy` (42_alu.md R97). -/
  | sub (x y : Reg)
  /-- 8xy6 `SHR Vx,Vy` (42_alu.md R98). -/
  | shr (x y : Reg)
  /-- 8xy7 `SUBN Vx,Vy` (42_alu.md R99). -/
  | subn (x y : Reg)
  /-- 8xyE `SHL Vx,Vy` (42_alu.md R100). -/
  | shl (x y : Reg)
  /-- 8xyn with n in 8..D or F, a no-op (40_pipeline.md R63). -/
  | nop8 (x y : Reg) (n : Nibble)
  /-- 9xy0 `SNE Vx,Vy` (41_control.md R77). -/
  | sneReg (x y : Reg)
  /-- 9xyn with n ≠ 0, a no-op (40_pipeline.md R63). -/
  | nop9 (x y : Reg) (n : Nibble)
  /-- Annn `LD I,nnn` (43_index_memory.md R110). -/
  | ldI (nnn : Addr12)
  /-- Bnnn `JP V0,nnn` (41_control.md R78). -/
  | jpV0 (nnn : Addr12)
  /-- Cxnn `RND Vx,nn` (42_alu.md R101). -/
  | rnd (x : Reg) (nn : Byte)
  /-- Dxyn `DRW Vx,Vy,n` (44_display.md R122). -/
  | drw (x y : Reg) (n : Nibble)
  /-- Ex9E `SKP Vx` (45_timers_input.md R131). -/
  | skp (x : Reg)
  /-- ExA1 `SKNP Vx` (45_timers_input.md R132). -/
  | sknp (x : Reg)
  /-- Exnn with another nn, a no-op (40_pipeline.md R63). -/
  | nopE (x : Reg) (nn : Byte)
  /-- Fx07 `LD Vx,DT` (45_timers_input.md R134). -/
  | ldVxDT (x : Reg)
  /-- Fx0A `LD Vx,K` (45_timers_input.md R135). -/
  | ldVxK (x : Reg)
  /-- Fx15 `LD DT,Vx` (45_timers_input.md R136). -/
  | ldDTVx (x : Reg)
  /-- Fx18 `LD ST,Vx` (45_timers_input.md R137). -/
  | ldSTVx (x : Reg)
  /-- Fx1E `ADD I,Vx` (43_index_memory.md R111). -/
  | addI (x : Reg)
  /-- Fx29 `LD F,Vx` (43_index_memory.md R112). -/
  | ldF (x : Reg)
  /-- Fx33 `LD B,Vx` (43_index_memory.md R113). -/
  | ldB (x : Reg)
  /-- Fx55 `LD [I],Vx` (43_index_memory.md R114). -/
  | storeRegs (x : Reg)
  /-- Fx65 `LD Vx,[I]` (43_index_memory.md R115). -/
  | loadRegs (x : Reg)
  /-- Fxnn with another nn, a no-op (40_pipeline.md R63). -/
  | nopF (x : Reg) (nn : Byte)
deriving DecidableEq, Repr

end Sys2Proof
end

