-- ==== Sys2Proof/WellFormed.lean ====
section
/-! DEFINITION. Which instruction terms stand for a word of their own row (30_encoding.md R54 to R56): SYS and
the no-op rows are fallback rows, so their don't-care fields may not spell a more specific row. -/

namespace Sys2Proof

/-- The selectors n of family 8 that name an operation (30_encoding.md R54). -/
def family8Selectors : List Nibble := [0x0, 0x1, 0x2, 0x3, 0x4, 0x5, 0x6, 0x7, 0xE]

/-- The selectors nn of family E that name an operation (30_encoding.md R54). -/
def familyESelectors : List Byte := [0x9E, 0xA1]

/-- The selectors nn of family F that name an operation (30_encoding.md R54). -/
def familyFSelectors : List Byte := [0x07, 0x0A, 0x15, 0x18, 0x1E, 0x29, 0x33, 0x55, 0x65]

/-- The check of an instruction term: it holds exactly of the terms the decoder can answer. -/
def Instr.wellFormed : Instr → Bool
  | .sys nnn => nnn != 0x0E0#12 && nnn != 0x0EE#12
  | .nop5 _ _ n => n != 0x0#4
  | .nop8 _ _ n => !(family8Selectors.contains n)
  | .nop9 _ _ n => n != 0x0#4
  | .nopE _ nn => !(familyESelectors.contains nn)
  | .nopF _ nn => !(familyFSelectors.contains nn)
  | .cls | .ret | .jp _ | .call _ | .seImm _ _ | .sneImm _ _ | .seReg _ _ | .ldImm _ _ | .addImm _ _
  | .ldReg _ _ | .orReg _ _ | .andReg _ _ | .xorReg _ _ | .addReg _ _ | .sub _ _ | .shr _ _ | .subn _ _
  | .shl _ _ | .sneReg _ _ | .ldI _ | .jpV0 _ | .rnd _ _ | .drw _ _ _ | .skp _ | .sknp _ | .ldVxDT _
  | .ldVxK _ | .ldDTVx _ | .ldSTVx _ | .addI _ | .ldF _ | .ldB _ | .storeRegs _ | .loadRegs _ => true

end Sys2Proof
end

