-- ==== Sys2Proof/Decode.lean ====
section
/-! DEFINITION. The decoder, "a pure, total function of the 16-bit word" (30_encoding.md R51, R54), the encoder
written from the same rows, the opcode table as data with its selection rule (R55), and decoding from bytes
(big-endian, 20_memory.md R35). -/

namespace Sys2Proof

/-! ### Fields (30_encoding.md R51) -/

/-- `op`, w[15:12]. -/
def opOf (w : Word) : Nibble := w.extractLsb' 12 4

/-- The register a 4-bit field names. -/
def regOfNibble (b : Nibble) : Reg := b.toFin

/-- The 4-bit field that names a register. -/
def nibbleOfReg (r : Reg) : Nibble := BitVec.ofFin r

/-- `x`, w[11:8]. -/
def xOf (w : Word) : Reg := regOfNibble (w.extractLsb' 8 4)

/-- `y`, w[7:4]. -/
def yOf (w : Word) : Reg := regOfNibble (w.extractLsb' 4 4)

/-- `n`, w[3:0]. -/
def nOf (w : Word) : Nibble := w.extractLsb' 0 4

/-- `nn`, w[7:0]. -/
def nnOf (w : Word) : Byte := w.extractLsb' 0 8

/-- `nnn`, w[11:0]. -/
def nnnOf (w : Word) : Addr12 := w.extractLsb' 0 12

/-! ### The decoder (30_encoding.md R54) -/

/-- Family 0: "the words 0x00E0 and 0x00EE are matched as whole words" (30_encoding.md R54). -/
def decodeFamily0 (w : Word) : Instr :=
  if w = 0x00E0#16 then .cls else if w = 0x00EE#16 then .ret else .sys (nnnOf w)

/-- Family 8, selected by n (30_encoding.md R54). -/
def decodeFamily8 (x y : Reg) (n : Nibble) : Instr :=
  match n.toNat with
  | 0x0 => .ldReg x y
  | 0x1 => .orReg x y
  | 0x2 => .andReg x y
  | 0x3 => .xorReg x y
  | 0x4 => .addReg x y
  | 0x5 => .sub x y
  | 0x6 => .shr x y
  | 0x7 => .subn x y
  | 0xE => .shl x y
  | _ => .nop8 x y n

/-- Family E, selected by nn (30_encoding.md R54). -/
def decodeFamilyE (x : Reg) (nn : Byte) : Instr :=
  if nn = 0x9E#8 then .skp x else if nn = 0xA1#8 then .sknp x else .nopE x nn

/-- Family F, selected by nn (30_encoding.md R54). -/
def decodeFamilyF (x : Reg) (nn : Byte) : Instr :=
  if nn = 0x07#8 then .ldVxDT x
  else if nn = 0x0A#8 then .ldVxK x
  else if nn = 0x15#8 then .ldDTVx x
  else if nn = 0x18#8 then .ldSTVx x
  else if nn = 0x1E#8 then .addI x
  else if nn = 0x29#8 then .ldF x
  else if nn = 0x33#8 then .ldB x
  else if nn = 0x55#8 then .storeRegs x
  else if nn = 0x65#8 then .loadRegs x
  else .nopF x nn

/-- The instruction a word stands for: "any 16-bit value decodes" (30_encoding.md R51, R54). -/
def decodeWord (w : Word) : Instr :=
  let x := xOf w
  let y := yOf w
  match (opOf w).toNat with
  | 0x0 => decodeFamily0 w
  | 0x1 => .jp (nnnOf w)
  | 0x2 => .call (nnnOf w)
  | 0x3 => .seImm x (nnOf w)
  | 0x4 => .sneImm x (nnOf w)
  | 0x5 => if nOf w = 0#4 then .seReg x y else .nop5 x y (nOf w)
  | 0x6 => .ldImm x (nnOf w)
  | 0x7 => .addImm x (nnOf w)
  | 0x8 => decodeFamily8 x y (nOf w)
  | 0x9 => if nOf w = 0#4 then .sneReg x y else .nop9 x y (nOf w)
  | 0xA => .ldI (nnnOf w)
  | 0xB => .jpV0 (nnnOf w)
  | 0xC => .rnd x (nnOf w)
  | 0xD => .drw x y (nOf w)
  | 0xE => decodeFamilyE x (nnOf w)
  | _ => decodeFamilyF x (nnOf w)

/-- "the byte at the lower address is the high byte" (20_memory.md R35). -/
def wordOfBytes (hi lo : Byte) : Word := hi ++ lo

/-- The high byte of a word, stored at the lower address (20_memory.md R35). -/
def highByte (w : Word) : Byte := w.extractLsb' 8 8

/-- The low byte of a word, stored at the higher address (20_memory.md R35). -/
def lowByte (w : Word) : Byte := w.extractLsb' 0 8

/-- Why bytes may not decode: every word does (30_encoding.md R51), so only that a word is not whole. -/
inductive DecodeError where
  /-- Fewer than the two bytes of an instruction (30_encoding.md R50). -/
  | truncated
deriving DecidableEq, Repr

/-- Decoding from bytes as memory holds them: the instruction and the bytes after it (30_encoding.md R50). -/
def decode : List Byte → Except DecodeError (Instr × List Byte)
  | hi :: lo :: rest => .ok (decodeWord (wordOfBytes hi lo), rest)
  | [_] => .error .truncated
  | [] => .error .truncated

/-! ### The encoder (30_encoding.md R52, R54) -/

/-- Format NNN (30_encoding.md R52). -/
def wordNNN (op : Nibble) (nnn : Addr12) : Word := op ++ nnn

/-- Formats XNN and XS (30_encoding.md R52). -/
def wordXNN (op : Nibble) (x : Reg) (nn : Byte) : Word := op ++ (nibbleOfReg x ++ nn)

/-- Formats XYS and XYN (30_encoding.md R52). -/
def wordXYN (op : Nibble) (x y : Reg) (n : Nibble) : Word := op ++ (nibbleOfReg x ++ (nibbleOfReg y ++ n))

/-- The word of an instruction (30_encoding.md R52, R54). -/
def encode : Instr → Word
  | .cls => 0x00E0#16
  | .ret => 0x00EE#16
  | .sys nnn => wordNNN 0x0 nnn
  | .jp nnn => wordNNN 0x1 nnn
  | .call nnn => wordNNN 0x2 nnn
  | .seImm x nn => wordXNN 0x3 x nn
  | .sneImm x nn => wordXNN 0x4 x nn
  | .seReg x y => wordXYN 0x5 x y 0x0
  | .nop5 x y n => wordXYN 0x5 x y n
  | .ldImm x nn => wordXNN 0x6 x nn
  | .addImm x nn => wordXNN 0x7 x nn
  | .ldReg x y => wordXYN 0x8 x y 0x0
  | .orReg x y => wordXYN 0x8 x y 0x1
  | .andReg x y => wordXYN 0x8 x y 0x2
  | .xorReg x y => wordXYN 0x8 x y 0x3
  | .addReg x y => wordXYN 0x8 x y 0x4
  | .sub x y => wordXYN 0x8 x y 0x5
  | .shr x y => wordXYN 0x8 x y 0x6
  | .subn x y => wordXYN 0x8 x y 0x7
  | .shl x y => wordXYN 0x8 x y 0xE
  | .nop8 x y n => wordXYN 0x8 x y n
  | .sneReg x y => wordXYN 0x9 x y 0x0
  | .nop9 x y n => wordXYN 0x9 x y n
  | .ldI nnn => wordNNN 0xA nnn
  | .jpV0 nnn => wordNNN 0xB nnn
  | .rnd x nn => wordXNN 0xC x nn
  | .drw x y n => wordXYN 0xD x y n
  | .skp x => wordXNN 0xE x 0x9E
  | .sknp x => wordXNN 0xE x 0xA1
  | .nopE x nn => wordXNN 0xE x nn
  | .ldVxDT x => wordXNN 0xF x 0x07
  | .ldVxK x => wordXNN 0xF x 0x0A
  | .ldDTVx x => wordXNN 0xF x 0x15
  | .ldSTVx x => wordXNN 0xF x 0x18
  | .addI x => wordXNN 0xF x 0x1E
  | .ldF x => wordXNN 0xF x 0x29
  | .ldB x => wordXNN 0xF x 0x33
  | .storeRegs x => wordXNN 0xF x 0x55
  | .loadRegs x => wordXNN 0xF x 0x65
  | .nopF x nn => wordXNN 0xF x nn

/-- The two bytes of an instruction as memory holds them (20_memory.md R35). -/
def encodeBytes (i : Instr) : List Byte := [highByte (encode i), lowByte (encode i)]

/-! ### The opcode table (30_encoding.md R55) -/

/-- The rows of spec/opcode_table.json, named by their ids. -/
inductive RowId where
  | r00E0 | r00EE | r0nnn | r1nnn | r2nnn | r3xnn | r4xnn | r5xy0 | r5xynOther | r6xnn | r7xnn
  | r8xy0 | r8xy1 | r8xy2 | r8xy3 | r8xy4 | r8xy5 | r8xy6 | r8xy7 | r8xyE | r8xynOther
  | r9xy0 | r9xynOther | rAnnn | rBnnn | rCxnn | rDxyn | rEx9E | rExA1 | rExnnOther
  | rFx07 | rFx0A | rFx15 | rFx18 | rFx1E | rFx29 | rFx33 | rFx55 | rFx65 | rFxnnOther
deriving DecidableEq, Repr

/-- One row: `match`, `mask` and `priority` as spec/opcode_table.json has them (30_encoding.md R55). -/
structure TableRow where
  id       : RowId
  value    : Word
  mask     : Word
  priority : Nat
deriving DecidableEq, Repr

/-- The rows with a 16-bit, 12-bit or 8-bit mask. -/
def tableSpecificRows : List TableRow :=
  [⟨.r00E0, 0x00E0, 0xFFFF, 0⟩, ⟨.r00EE, 0x00EE, 0xFFFF, 0⟩] ++
  [⟨.rEx9E, 0xE09E, 0xF0FF, 1⟩, ⟨.rExA1, 0xE0A1, 0xF0FF, 1⟩, ⟨.rFx07, 0xF007, 0xF0FF, 1⟩,
   ⟨.rFx0A, 0xF00A, 0xF0FF, 1⟩, ⟨.rFx15, 0xF015, 0xF0FF, 1⟩, ⟨.rFx18, 0xF018, 0xF0FF, 1⟩,
   ⟨.rFx1E, 0xF01E, 0xF0FF, 1⟩, ⟨.rFx29, 0xF029, 0xF0FF, 1⟩, ⟨.rFx33, 0xF033, 0xF0FF, 1⟩,
   ⟨.rFx55, 0xF055, 0xF0FF, 1⟩, ⟨.rFx65, 0xF065, 0xF0FF, 1⟩] ++
  [⟨.r5xy0, 0x5000, 0xF00F, 2⟩, ⟨.r8xy0, 0x8000, 0xF00F, 2⟩, ⟨.r8xy1, 0x8001, 0xF00F, 2⟩,
   ⟨.r8xy2, 0x8002, 0xF00F, 2⟩, ⟨.r8xy3, 0x8003, 0xF00F, 2⟩, ⟨.r8xy4, 0x8004, 0xF00F, 2⟩,
   ⟨.r8xy5, 0x8005, 0xF00F, 2⟩, ⟨.r8xy6, 0x8006, 0xF00F, 2⟩, ⟨.r8xy7, 0x8007, 0xF00F, 2⟩,
   ⟨.r8xyE, 0x800E, 0xF00F, 2⟩, ⟨.r9xy0, 0x9000, 0xF00F, 2⟩]

/-- The rows with a 4-bit mask: one a family. -/
def tableFamilyRows : List TableRow :=
  [⟨.r0nnn, 0x0000, 0xF000, 3⟩, ⟨.r1nnn, 0x1000, 0xF000, 3⟩, ⟨.r2nnn, 0x2000, 0xF000, 3⟩,
   ⟨.r3xnn, 0x3000, 0xF000, 3⟩, ⟨.r4xnn, 0x4000, 0xF000, 3⟩, ⟨.r5xynOther, 0x5000, 0xF000, 3⟩,
   ⟨.r6xnn, 0x6000, 0xF000, 3⟩, ⟨.r7xnn, 0x7000, 0xF000, 3⟩] ++
  [⟨.r8xynOther, 0x8000, 0xF000, 3⟩, ⟨.r9xynOther, 0x9000, 0xF000, 3⟩, ⟨.rAnnn, 0xA000, 0xF000, 3⟩,
   ⟨.rBnnn, 0xB000, 0xF000, 3⟩, ⟨.rCxnn, 0xC000, 0xF000, 3⟩, ⟨.rDxyn, 0xD000, 0xF000, 3⟩,
   ⟨.rExnnOther, 0xE000, 0xF000, 3⟩, ⟨.rFxnnOther, 0xF000, 0xF000, 3⟩]

/-- The forty rows. -/
def opcodeTable : List TableRow := tableSpecificRows ++ tableFamilyRows

/-- `(w AND mask) == match` (30_encoding.md R55). -/
def TableRow.matchesWord (r : TableRow) (w : Word) : Bool := w &&& r.mask == r.value

/-- The rows of the lowest priority number among some rows. -/
def mostSpecific (rows : List TableRow) : List TableRow :=
  rows.filter fun r => rows.all fun q => r.priority ≤ q.priority

/-- "take every row with (w AND mask) == match and pick the one whose mask has the most 1 bits"
(30_encoding.md R55). -/
def selectedRows (w : Word) : List TableRow := mostSpecific (opcodeTable.filter (·.matchesWord w))

/-- The row of spec/opcode_table.json that an instruction stands for. -/
def Instr.rowId : Instr → RowId
  | .cls => .r00E0
  | .ret => .r00EE
  | .sys _ => .r0nnn
  | .jp _ => .r1nnn
  | .call _ => .r2nnn
  | .seImm _ _ => .r3xnn
  | .sneImm _ _ => .r4xnn
  | .seReg _ _ => .r5xy0
  | .nop5 _ _ _ => .r5xynOther
  | .ldImm _ _ => .r6xnn
  | .addImm _ _ => .r7xnn
  | .ldReg _ _ => .r8xy0
  | .orReg _ _ => .r8xy1
  | .andReg _ _ => .r8xy2
  | .xorReg _ _ => .r8xy3
  | .addReg _ _ => .r8xy4
  | .sub _ _ => .r8xy5
  | .shr _ _ => .r8xy6
  | .subn _ _ => .r8xy7
  | .shl _ _ => .r8xyE
  | .nop8 _ _ _ => .r8xynOther
  | .sneReg _ _ => .r9xy0
  | .nop9 _ _ _ => .r9xynOther
  | .ldI _ => .rAnnn
  | .jpV0 _ => .rBnnn
  | .rnd _ _ => .rCxnn
  | .drw _ _ _ => .rDxyn
  | .skp _ => .rEx9E
  | .sknp _ => .rExA1
  | .nopE _ _ => .rExnnOther
  | .ldVxDT _ => .rFx07
  | .ldVxK _ => .rFx0A
  | .ldDTVx _ => .rFx15
  | .ldSTVx _ => .rFx18
  | .addI _ => .rFx1E
  | .ldF _ => .rFx29
  | .ldB _ => .rFx33
  | .storeRegs _ => .rFx55
  | .loadRegs _ => .rFx65
  | .nopF _ _ => .rFxnnOther

/-! ### The host's question about one word of the table -/

/-- The instruction the decoder reads from a table row's word of `nbits` bits (one instruction word, 30_encoding.md R50;
bits above `nbits` are 0): the word's bytes, high byte first (20_memory.md R35), given to `decode`. -/
def decodeTableWord (nbits w : Nat) : Option Instr :=
  if nbits ≤ 16 then
    let word := BitVec.ofNat 16 (w % 2 ^ nbits)
    match decode [highByte word, lowByte word] with
    | .ok (i, _) => some i
    | .error _ => none
  else none

end Sys2Proof
end

