-- ==== Sys2Proof/Config.lean ====
section
/-! DEFINITION. What an implementation fixes (the parameters of 00_scope.md R5), the default font of
70_reset_and_hazards.md R162, the fixed sizes of R4, and the free values of the host's inputs. -/

namespace Sys2Proof

/-- SHIFT_SOURCE of 00_scope.md R5: what 8xy6 and 8xyE shift (92_eei_decisions.md D7). -/
inductive ShiftSource where
  | vx
  | vy
deriving DecidableEq, Repr

/-- TIMER_UNDERFLOW of 00_scope.md R5 (92_eei_decisions.md D8). -/
inductive TimerUnderflow where
  | saturate
  | wrapFromZero
  | reloadOnReachZero
deriving DecidableEq, Repr

/-- FONT_STRIDE of 00_scope.md R5: 5 in the design, 1 in the observed original (92_eei_decisions.md D11). -/
inductive FontStride where
  | design
  | observed
deriving DecidableEq, Repr

/-- The number of bytes FONT_STRIDE stands for. -/
def FontStride.bytes : FontStride → Nat
  | .design => 5
  | .observed => 1

/-- The parameters of a build that instructions and ticks depend on (00_scope.md R5, log 5). -/
structure Config where
  shiftSource    : ShiftSource
  timerUnderflow : TimerUnderflow
  fontStride     : FontStride
deriving DecidableEq, Repr

/-- "A model built for the source's normative design uses the defaults" (00_scope.md R5). -/
def Config.default : Config :=
  { shiftSource := .vx, timerUnderflow := .saturate, fontStride := .design }

/-- MEM_SIZE (00_scope.md R4). -/
abbrev Config.memSize : Nat := 4096

/-- STACK_DEPTH (00_scope.md R4). -/
abbrev Config.stackDepth : Nat := 16

/-- PROGRAM_BASE (00_scope.md R4). -/
abbrev Config.programBase : Nat := 512

/-- MAX_IMAGE (00_scope.md R4). -/
abbrev Config.maxImage : Nat := 3584

/-- The glyphs of the digits 0 to 7 of the default FONT (70_reset_and_hazards.md R162). PRESUMED by the
spec itself: "the conventional CHIP-8 font [from general knowledge, not in source]" (log 6). -/
def Config.fontLow : List Byte :=
  [0xF0, 0x90, 0x90, 0x90, 0xF0] ++ [0x20, 0x60, 0x20, 0x20, 0x70] ++
  [0xF0, 0x10, 0xF0, 0x80, 0xF0] ++ [0xF0, 0x10, 0xF0, 0x10, 0xF0] ++
  [0x90, 0x90, 0xF0, 0x10, 0x10] ++ [0xF0, 0x80, 0xF0, 0x10, 0xF0] ++
  [0xF0, 0x80, 0xF0, 0x90, 0xF0] ++ [0xF0, 0x10, 0x20, 0x40, 0x40]

/-- The glyphs of the digits 8 to F of the default FONT (70_reset_and_hazards.md R162, log 6). -/
def Config.fontHigh : List Byte :=
  [0xF0, 0x90, 0xF0, 0x90, 0xF0] ++ [0xF0, 0x90, 0xF0, 0x10, 0xF0] ++
  [0xF0, 0x90, 0xF0, 0x90, 0x90] ++ [0xE0, 0x90, 0xE0, 0x90, 0xE0] ++
  [0xF0, 0x80, 0x80, 0x80, 0xF0] ++ [0xE0, 0x90, 0x90, 0x90, 0xE0] ++
  [0xF0, 0x80, 0xF0, 0x80, 0xF0] ++ [0xF0, 0x80, 0xF0, 0x80, 0x80]

/-- The 80 bytes of the default FONT. -/
def Config.fontBytes : List Byte := Config.fontLow ++ Config.fontHigh

/-- The default FONT as a value of the parameter's type: 80 bytes (00_scope.md R5). -/
def Config.font : Vector Byte 80 := ⟨Config.fontBytes.toArray, rfl⟩

/-- FREE: the key-down vector the host gives step number k, where State.inputs lists none
(10_state.md R24, 93_implementation_defined.md U9, log 3). No body: nothing can be proved of its values. -/
opaque Config.freeKeys : Nat → Word

/-- FREE: the random byte the host gives step number k, "under no law" (42_alu.md R101, U1, log 3). -/
opaque Config.freeRnd : Nat → Byte

/-- FREE: how many ticks the host runs after step number k, "any number from 0 up" (60_exceptions.md R152,
U7, log 3). -/
opaque Config.freeTicks : Nat → Nat

/-- FREE: whether the host presents after step number k (40_pipeline.md R66, 10_state.md R27, log 4). -/
opaque Config.freePresent : Nat → Bool

end Sys2Proof
end

