-- ==== Sys2Proof/Machine/State.lean ====
section
/-! DEFINITION. The state of CORE (10_state.md R26), the model's own fields beside it (logs 2, 3, 5), the reasons
a step can stop, and the state right after reset. -/

namespace Sys2Proof.Machine

/-- The fatal kinds of 60_exceptions.md R142. -/
inductive FatalKind where
  | stackUnderflow
  | stackOverflow
  | invalidKeyIndex
  | memoryOutOfRange
deriving DecidableEq, Repr

/-- `fatal(kind, info, addr, word)` of 10_state.md R22 and 60_exceptions.md R140: `word` is none if the fetch failed. -/
structure FatalRecord where
  kind : FatalKind
  info : Nat
  addr : Word
  word : Option Word
deriving DecidableEq, Repr

/-- The results a step ends with: "exactly one of three results" (40_pipeline.md R61). -/
inductive StepResult where
  | completed
  | needsInput
  | fatal (r : FatalRecord)
deriving DecidableEq, Repr

/-- What one step carries inside itself: the address A and the word w of its instruction (40_pipeline.md R60) and the
inputs it sampled (10_state.md R24, R27). The model's own field, written by every step before it is read (log 2). -/
structure StepContext where
  addr : Word
  word : Option Word
  keys : Word
  rnd  : Byte
deriving DecidableEq, Repr

/-- The host's choices for one turn of its loop (40_pipeline.md R66): the inputs of the step, how many ticks follow it,
and whether it presents (logs 3, 4). -/
structure HostInput where
  keys    : Word
  rnd     : Byte
  ticks   : Nat
  present : Bool
deriving DecidableEq, Repr

/-- The memory: the bytes that differ from the reset contents, in rising order of address (20_memory.md R30; the canonical
form is `Memory.wf`). -/
abbrev Memory := List Host.Cell

/-- The machine's state: the eleven rows of 10_state.md R26, then the model's own fields. -/
structure State where
  /-- V0..VF (10_state.md R10, R11). -/
  v       : Vector Byte 16
  /-- The program counter (10_state.md R13). -/
  pc      : Word
  /-- The index register I (10_state.md R14). -/
  ireg    : Word
  /-- The return-address stack S[0..15] (10_state.md R15). -/
  stack   : Vector Word 16
  /-- The stack pointer, an integer in 0..16 (10_state.md R16, log 9). -/
  sp      : Nat
  /-- The delay timer DT (10_state.md R17). -/
  dt      : Byte
  /-- The sound timer ST (10_state.md R18). -/
  st      : Byte
  /-- The display rows D[0..31] (10_state.md R19). -/
  display : Vector Row 32
  /-- The 4096-byte memory (10_state.md R20). -/
  mem     : Memory
  /-- The frame-dirty bit (10_state.md R21). -/
  dirty   : Bool
  /-- Running (none) or the fatal condition hit (10_state.md R22). -/
  halted  : Option FatalRecord
  /-- The parameters of the build (00_scope.md R5, log 5). -/
  config  : Config
  /-- The running step's own values (log 2). -/
  ctx     : StepContext
  /-- The result of the last step, none before the first (40_pipeline.md R61, log 2). -/
  result  : Option StepResult
  /-- The host's choices for the coming steps, oldest first (log 3). -/
  inputs  : List HostInput
  /-- The number of the next step: the argument of the free inputs (log 3). -/
  seq     : Nat
deriving DecidableEq, Repr

/-- Why the machine stops. -/
inductive Fault where
  /-- `step` or `tick` of a machine that hit a fatal condition: "Once `halted != none`, neither `step` nor `tick` is
  enabled" (60_exceptions.md R141). Raised by `stepWith` and `tick` alone. Safe: the hardware does not go on either. -/
  | halted (r : FatalRecord)
deriving DecidableEq, Repr

/-- Why the model gives no meaning. -/
inductive Refusal where
  /-- An instruction of the table without a meaning in this model: raised by an arm of `exec` alone. Safe: the model says
  nothing. No arm raises it: every row has its meaning. -/
  | notModelled (mnemonic : String)
deriving DecidableEq, Repr

/-- The machine right after reset with an empty image and the default parameters (70_reset_and_hazards.md R160; the
zeros are the decision D14 of 10_state.md R26, log 7; the model's own fields, logs 2, 3, 5). The memory lists nothing: an
unlisted address reads as its reset contents. -/
def State.reset : State :=
  { v := Vector.replicate 16 0
    pc := 0x0200
    ireg := 0
    stack := Vector.replicate 16 0
    sp := 0
    dt := 0
    st := 0
    display := Vector.replicate 32 0
    mem := []
    dirty := false
    halted := none
    config := Config.default
    ctx := { addr := 0, word := none, keys := 0, rnd := 0 }
    result := none
    inputs := []
    seq := 0 }

end Sys2Proof.Machine
end

