-- ==== Sys2Proof/Machine/Memory.lean ====
section
/-! DEFINITION. The operations over memory: reading and writing one byte of the canonical list, runs of bytes, and the
range check every access makes first (20_memory.md R32 to R34, R38). -/

namespace Sys2Proof.Machine

/-- What an address nothing has written reads as: the reset contents, the default FONT at 0x000..0x04F and 0x00
elsewhere (10_state.md R26, 70_reset_and_hazards.md R162; logs 6, 7). -/
def initialByte (a : Nat) : Byte := Config.fontBytes.getD a 0

/-- One byte of memory. Every access checks its range first (`rangeFault`), so only addresses below 4096 are read (log 21). -/
def Memory.get : Memory → Nat → Byte
  | [], a => initialByte a
  | (k, b) :: m, a => if a = k then b else Memory.get m a

/-- The cell list `(a, b) :: m`, without the cell when b is what an unlisted a reads as. -/
def consCell (a : Nat) (b : Byte) (m : Memory) : Memory :=
  if b = initialByte a then m else (a, b) :: m

/-- Storing one byte: "reading a byte returns the last value written to it" (20_memory.md R38). It keeps the canonical form. -/
def Memory.set : Memory → Nat → Byte → Memory
  | [], a, b => consCell a b []
  | (k, c) :: m, a, b =>
    if a < k then consCell a b ((k, c) :: m)
    else if a = k then consCell a b m
    else (k, c) :: Memory.set m a b

/-- The bytes of a list stored at base, base + 1, … (20_memory.md R37). -/
def storeBytes (m : Memory) (base : Nat) : List Byte → Memory
  | [] => m
  | b :: bs => storeBytes (m.set base b) (base + 1) bs

/-- The `len` bytes at base, base + 1, … (20_memory.md R37). -/
def loadBytes (m : Memory) (base : Nat) : Nat → List Byte
  | 0 => []
  | len + 1 => m.get base :: loadBytes m (base + 1) len

/-- The addresses of a memory's cells rise strictly above `lo`, stay below 4096, and no cell holds what an unlisted
address reads as. -/
def Memory.wfFrom (lo : Nat) : Memory → Bool
  | [] => true
  | (k, b) :: m => lo ≤ k && k < Config.memSize && b != initialByte k && Memory.wfFrom (k + 1) m

/-- The canonical form: equal memories are equal lists. -/
def Memory.wf (m : Memory) : Bool := Memory.wfFrom 0 m

/-- The lowest out-of-range address of an access to `len` bytes at `base`, none where every byte is below 4096
(20_memory.md R32 to R34; an access to no byte checks nothing, 44_display.md R122). -/
def rangeFault (base len : Nat) : Option Nat :=
  if len = 0 ∨ base + len ≤ Config.memSize then none else some (max base Config.memSize)

/-- An instruction's word stored at an address, high byte first (20_memory.md R35). -/
def storeWord (m : Memory) (a : Nat) (w : Word) : Memory := storeBytes m a [highByte w, lowByte w]

/-- The word at an address, the byte at the lower address the high one (20_memory.md R35). -/
def loadWord (m : Memory) (a : Nat) : Word := wordOfBytes (m.get a) (m.get (a + 1))

end Sys2Proof.Machine
end

