-- ==== Sys2Proof/Machine/Ops.lean ====
section
/-! DEFINITION. The named operations over the state: each register's one way in and out, the return stack, skips, and
raising a fatal condition, which is CORE's only exception (60_exceptions.md R140, R145). -/

namespace Sys2Proof.Machine

/-! ### Registers -/

/-- `V[x]` (00_scope.md R6, 10_state.md R10). -/
def State.getV (s : State) (x : Reg) : Byte := s.v.get x

/-- `V[x] <- b` (00_scope.md R6, 10_state.md R10). -/
def State.setV (s : State) (x : Reg) (b : Byte) : State := { s with v := s.v.set x.val b x.isLt }

/-- `pc <- a` (10_state.md R13): not checked against the memory size. -/
def State.setPc (s : State) (a : Word) : State := { s with pc := a }

/-- `I <- a` (10_state.md R14). -/
def State.setI (s : State) (a : Word) : State := { s with ireg := a }

/-- `DT <- b` (10_state.md R17). -/
def State.setDT (s : State) (b : Byte) : State := { s with dt := b }

/-- `ST <- b` (10_state.md R18). -/
def State.setST (s : State) (b : Byte) : State := { s with st := b }

/-- The memory replaced. -/
def State.setMem (s : State) (m : Memory) : State := { s with mem := m }

/-- The display replaced (10_state.md R19). -/
def State.setDisplay (s : State) (d : Vector Row 32) : State := { s with display := d }

/-- `dirty <- b` (10_state.md R21). -/
def State.setDirty (s : State) (b : Bool) : State := { s with dirty := b }

/-- The step's result (40_pipeline.md R61). -/
def State.setResult (s : State) (r : StepResult) : State := { s with result := some r }

/-- One byte of memory. -/
def State.byteAt (s : State) (a : Nat) : Byte := s.mem.get a

/-- The bytes of a list stored at base, base + 1, … -/
def State.store (s : State) (base : Nat) (bs : List Byte) : State := s.setMem (storeBytes s.mem base bs)

/-- Bytes written to the registers number k, k + 1, … (43_index_memory.md R115). -/
def putRegs (v : Vector Byte 16) (k : Nat) : List Byte → Vector Byte 16
  | [] => v
  | b :: bs => putRegs (v.setIfInBounds k b) (k + 1) bs

/-- Bytes written to V0, V1, … (43_index_memory.md R115). -/
def State.loadV (s : State) (bs : List Byte) : State := { s with v := putRegs s.v 0 bs }

/-! ### Program counter and return stack -/

/-- A skip: `pc <- (pc + 2) mod 65536` where the condition holds (00_scope.md R8, 41_control.md R74). -/
def State.skipIf (s : State) (c : Bool) : State := if c then s.setPc (s.pc + 2) else s

/-- `S[k]`. No entry has an index of 16 or more; the value read there is never used while sp ≤ 16 (log 9). -/
def State.getS (s : State) (k : Nat) : Word := s.stack.toList.getD k 0

/-- `S[sp] <- a; sp <- sp + 1` (41_control.md R73). -/
def State.push (s : State) (a : Word) : State :=
  { s with stack := s.stack.setIfInBounds s.sp a, sp := s.sp + 1 }

/-- `sp <- sp - 1`; the entry read is not cleared (41_control.md R71, 10_state.md R15). -/
def State.pop (s : State) : State := { s with sp := s.sp - 1 }

/-! ### Fatal conditions -/

/-- The codes of 60_exceptions.md R142 (log 20). -/
def FatalKind.code : FatalKind → Nat
  | .stackUnderflow => 1
  | .stackOverflow => 2
  | .invalidKeyIndex => 3
  | .memoryOutOfRange => 4

/-- The record `fatal(kind, info, A, w)` of the running step (60_exceptions.md R140). -/
def State.fatalRecord (s : State) (kind : FatalKind) (info : Nat) : FatalRecord :=
  { kind := kind, info := info, addr := s.ctx.addr, word := s.ctx.word }

/-- `raise Fatal(kind, info)`: `halted` gets the record, the step's result is the record, and nothing else is written; pc
keeps the value it has (60_exceptions.md R140, log 1). -/
def State.raiseFatal (s : State) (kind : FatalKind) (info : Nat) : State :=
  { s with halted := some (s.fatalRecord kind info), result := some (.fatal (s.fatalRecord kind info)) }

/-- An effect that touches the `len` bytes at `base`: MemoryOutOfRange with the lowest bad address and none of the effect,
or the whole effect `done` (20_memory.md R34). -/
def State.guardRange (s : State) (base len : Nat) (done : State) : State :=
  match rangeFault base len with
  | some a => s.raiseFatal .memoryOutOfRange a
  | none => done

end Sys2Proof.Machine
end

