-- ==== Sys2Proof/Machine/Flags.lean ====
section
/-! DEFINITION. The flag computations: each gives the value an instruction writes to VF as its flag (10_state.md R11), and
the two writes of a flagged instruction in the spec's order (42_alu.md R102). -/

namespace Sys2Proof.Machine

/-- The carry of 8xy4: `bit(a + b > 255)` on exact sums (42_alu.md R96, R103). -/
def carryFlag (a b : Byte) : Byte := bit (decide (a.toNat + b.toNat > 255))

/-- The not-borrow of 8xy5 and 8xy7, strict: 1 exactly when minuend > subtrahend (42_alu.md R97, R99; 90_conflicts.md C1). -/
def notBorrowFlag (minuend subtrahend : Byte) : Byte := bit (decide (minuend.toNat > subtrahend.toNat))

/-- The bit 8xy6 shifts out: `src AND 1` (42_alu.md R98). -/
def lowBitFlag (src : Byte) : Byte := src &&& 1#8

/-- The bit 8xyE shifts out: `(src >> 7) AND 1` (42_alu.md R100). -/
def highBitFlag (src : Byte) : Byte := (src >>> 7) &&& 1#8

/-- The collision flag of Dxyn (44_display.md R124). -/
def collisionFlag (hit : Bool) : Byte := bit hit

/-- "the flag to VF first, then the result to Vx": when x = 0xF the result overwrites the flag (42_alu.md R102, log 12). -/
def State.flagThenResult (s : State) (flag : Byte) (x : Reg) (r : Byte) : State := (s.setV VF flag).setV x r

end Sys2Proof.Machine
end

