-- ==== Sys2Proof/Machine/Operands.lean ====
section
/-! DEFINITION. The operand forms: immediates, addresses and register values as instructions use them
(30_encoding.md R53, 43_index_memory.md R116), the key queries (45_timers_input.md R130). -/

namespace Sys2Proof.Machine

/-- `zext_16(nnn)` (30_encoding.md R53). -/
def addrOfImm (nnn : Addr12) : Word := nnn.setWidth 16

/-- `zext_16` of a register value, where it is added to a 16-bit value (41_control.md R78, 43_index_memory.md R111). -/
def wordOfByte (b : Byte) : Word := b.setWidth 16

/-- `(zext_16(nnn) + V[0]) mod 65536`, not reduced to 12 bits (41_control.md R78). -/
def jumpTarget (nnn : Addr12) (v0 : Byte) : Word := addrOfImm nnn + wordOfByte v0

/-- The effective address I, exact, to which small offsets are added without reduction (43_index_memory.md R116). -/
def State.iAddr (s : State) : Nat := s.ireg.toNat

/-- `(0x000 + V[x] * FONT_STRIDE) mod 65536`; Vx is not reduced to 4 bits (43_index_memory.md R112). -/
def glyphAddr (stride : FontStride) (digit : Byte) : Word := BitVec.ofNat 16 (digit.toNat * stride.bytes)

/-- The shift source of 8xy6 and 8xyE (42_alu.md R98, R100). -/
def State.shiftOperand (s : State) (x y : Reg) : Byte :=
  match s.config.shiftSource with
  | .vx => s.getV x
  | .vy => s.getV y

/-- The decimal digits of a byte: hundreds, tens, ones (43_index_memory.md R113). -/
def bcdDigits (b : Byte) : List Byte :=
  [BitVec.ofNat 8 (b.toNat / 100), BitVec.ofNat 8 (b.toNat / 10 % 10), BitVec.ofNat 8 (b.toNat % 10)]

/-- The registers V0..Vx, in order (43_index_memory.md R114). -/
def State.regsUpTo (s : State) (x : Reg) : List Byte := s.v.toList.take (x.val + 1)

/-- `is_down(k)` (45_timers_input.md R130). -/
def isDown (keys : Word) (k : Nat) : Bool := keys.getLsbD k

/-- `any_down()`: the least k in 0..15 that is down (45_timers_input.md R130). -/
def anyDown (keys : Word) : Option Nat := (List.range 16).find? (isDown keys)

end Sys2Proof.Machine
end

