-- ==== Sys2Proof/Machine/Alu.lean ====
section
/-! DEFINITION. Register loads, arithmetic and logic (42_alu.md). Every operand is read before any write, and all 8-bit
arithmetic wraps modulo 256 (R102, R103). -/

namespace Sys2Proof.Machine

/-- LD Vx, nn (42_alu.md R90). -/
def execLdImm (x : Reg) (nn : Byte) (s : State) : Host.Outcome State Fault Refusal := .next (s.setV x nn)

/-- ADD Vx, nn: no flag (42_alu.md R91). -/
def execAddImm (x : Reg) (nn : Byte) (s : State) : Host.Outcome State Fault Refusal :=
  .next (s.setV x (s.getV x + nn))

/-- LD Vx, Vy (42_alu.md R92). -/
def execLdReg (x y : Reg) (s : State) : Host.Outcome State Fault Refusal := .next (s.setV x (s.getV y))

/-- OR Vx, Vy: VF is left alone (42_alu.md R93). -/
def execOrReg (x y : Reg) (s : State) : Host.Outcome State Fault Refusal :=
  .next (s.setV x (s.getV x ||| s.getV y))

/-- AND Vx, Vy (42_alu.md R94). -/
def execAndReg (x y : Reg) (s : State) : Host.Outcome State Fault Refusal :=
  .next (s.setV x (s.getV x &&& s.getV y))

/-- XOR Vx, Vy (42_alu.md R95). -/
def execXorReg (x y : Reg) (s : State) : Host.Outcome State Fault Refusal :=
  .next (s.setV x (s.getV x ^^^ s.getV y))

/-- ADD Vx, Vy: VF = carry (42_alu.md R96). -/
def execAddReg (x y : Reg) (s : State) : Host.Outcome State Fault Refusal :=
  .next (s.flagThenResult (carryFlag (s.getV x) (s.getV y)) x (s.getV x + s.getV y))

/-- SUB Vx, Vy: VF = not-borrow (42_alu.md R97). -/
def execSub (x y : Reg) (s : State) : Host.Outcome State Fault Refusal :=
  .next (s.flagThenResult (notBorrowFlag (s.getV x) (s.getV y)) x (s.getV x - s.getV y))

/-- SHR Vx, Vy: VF = the bit shifted out (42_alu.md R98). -/
def execShr (x y : Reg) (s : State) : Host.Outcome State Fault Refusal :=
  .next (s.flagThenResult (lowBitFlag (s.shiftOperand x y)) x (s.shiftOperand x y >>> 1))

/-- SUBN Vx, Vy: VF = not-borrow of Vy - Vx (42_alu.md R99). -/
def execSubn (x y : Reg) (s : State) : Host.Outcome State Fault Refusal :=
  .next (s.flagThenResult (notBorrowFlag (s.getV y) (s.getV x)) x (s.getV y - s.getV x))

/-- SHL Vx, Vy: VF = the bit shifted out (42_alu.md R100). -/
def execShl (x y : Reg) (s : State) : Host.Outcome State Fault Refusal :=
  .next (s.flagThenResult (highBitFlag (s.shiftOperand x y)) x (s.shiftOperand x y <<< 1))

/-- RND Vx, nn: the step's random byte ANDed with nn (42_alu.md R101). -/
def execRnd (x : Reg) (nn : Byte) (s : State) : Host.Outcome State Fault Refusal :=
  .next (s.setV x (s.ctx.rnd &&& nn))

end Sys2Proof.Machine
end

