-- ==== Sys2Proof/Machine/Control.lean ====
section
/-! DEFINITION. Control transfer, calls, skips and SYS (41_control.md). Each meaning is the execute phase: pc is already
`(A + 2) mod 65536` (40_pipeline.md R67). -/

namespace Sys2Proof.Machine

/-- SYS nnn: a no-op (41_control.md R70). -/
def execSys (_nnn : Addr12) (s : State) : Host.Outcome State Fault Refusal := .next s

/-- RET: StackUnderflow with info 0 when sp = 0, else pc from S[sp-1] (41_control.md R71). -/
def execRet (s : State) : Host.Outcome State Fault Refusal :=
  .next (if s.sp = 0 then s.raiseFatal .stackUnderflow 0 else (s.setPc (s.getS (s.sp - 1))).pop)

/-- JP nnn (41_control.md R72). -/
def execJp (nnn : Addr12) (s : State) : Host.Outcome State Fault Refusal := .next (s.setPc (addrOfImm nnn))

/-- CALL nnn: StackOverflow with info 16 when sp = 16, else the return address is pushed (41_control.md R73). -/
def execCall (nnn : Addr12) (s : State) : Host.Outcome State Fault Refusal :=
  .next (if s.sp < Config.stackDepth then (s.push s.pc).setPc (addrOfImm nnn) else s.raiseFatal .stackOverflow 16)

/-- SE Vx, nn (41_control.md R74). -/
def execSeImm (x : Reg) (nn : Byte) (s : State) : Host.Outcome State Fault Refusal :=
  .next (s.skipIf (s.getV x == nn))

/-- SNE Vx, nn (41_control.md R75). -/
def execSneImm (x : Reg) (nn : Byte) (s : State) : Host.Outcome State Fault Refusal :=
  .next (s.skipIf (s.getV x != nn))

/-- SE Vx, Vy (41_control.md R76). -/
def execSeReg (x y : Reg) (s : State) : Host.Outcome State Fault Refusal :=
  .next (s.skipIf (s.getV x == s.getV y))

/-- SNE Vx, Vy (41_control.md R77). -/
def execSneReg (x y : Reg) (s : State) : Host.Outcome State Fault Refusal :=
  .next (s.skipIf (s.getV x != s.getV y))

/-- JP V0, nnn (41_control.md R78). -/
def execJpV0 (nnn : Addr12) (s : State) : Host.Outcome State Fault Refusal :=
  .next (s.setPc (jumpTarget nnn (s.getV V0)))

end Sys2Proof.Machine
end

