-- ==== Sys2Proof/Machine/Display.lean ====
section
/-! DEFINITION. The display: the sprite compositor, written as the loop of 44_display.md R122, and the two instructions
that use the display. -/

namespace Sys2Proof.Machine

/-- The pixel at row `row mod 32`, column `col mod 64`: bit c of D[r] (10_state.md R19, 44_display.md R121). -/
def pixelOf (d : Vector Row 32) (row col : Nat) : Bool :=
  (d[row % 32]'(Nat.mod_lt _ (by decide))).getLsbD (col % 64)

/-- `D[row][col] <- D[row][col] XOR 1` at row `row mod 32`, column `col mod 64` (44_display.md R122, R123). -/
def togglePixel (d : Vector Row 32) (row col : Nat) : Vector Row 32 :=
  d.set (row % 32) ((d[row % 32]'(Nat.mod_lt _ (by decide))) ^^^ (1#64 <<< (col % 64))) (Nat.mod_lt _ (by decide))

/-- The display under composition, with `coll` of 44_display.md R122. -/
structure Canvas where
  rows : Vector Row 32
  coll : Bool
deriving DecidableEq, Repr

/-- "Column offset c (0 <= c < 8) of that row is bit `7 - c` of the byte" (44_display.md R121). -/
def spriteBit (b : Byte) (c : Nat) : Bool := b.getLsbD (7 - c)

/-- One sprite bit composited onto the pixel at a row and a column, both wrapping (44_display.md R121 to R124). -/
def plot (k : Canvas) (row col : Nat) (on : Bool) : Canvas :=
  if on then { rows := togglePixel k.rows row col, coll := k.coll || pixelOf k.rows row col } else k

/-- The bits c, c + 1, … of one sprite byte, `len` of them: the inner loop of 44_display.md R122. -/
def drawBits (k : Canvas) (b : Byte) (row cx : Nat) : Nat → Nat → Canvas
  | _, 0 => k
  | c, len + 1 => drawBits (plot k row (cx + c) (spriteBit b c)) b row cx (c + 1) len

/-- Sprite bytes drawn from a row downwards: the outer loop of 44_display.md R122. -/
def drawRows (k : Canvas) (cx : Nat) : Nat → List Byte → Canvas
  | _, [] => k
  | row, b :: bs => drawRows (drawBits k b row cx 0 8) cx (row + 1) bs

/-- The compositor's work of one Dxyn: `draw_sprite(vx, vy, height)` with the sprite's bytes at I (44_display.md R121). -/
def State.drawSprite (s : State) (x y : Reg) (n : Nibble) : Canvas :=
  drawRows { rows := s.display, coll := false } (s.getV x).toNat (s.getV y).toNat (loadBytes s.mem s.iAddr n.toNat)

/-- What a drawn sprite leaves: the pixels, VF = collision, dirty set (44_display.md R122). -/
def State.putCanvas (s : State) (k : Canvas) : State :=
  ((s.setDisplay k.rows).setV VF (collisionFlag k.coll)).setDirty true

/-- CLS: every row 0, dirty set (44_display.md R120). -/
def execCls (s : State) : Host.Outcome State Fault Refusal :=
  .next ((s.setDisplay (Vector.replicate 32 0)).setDirty true)

/-- DRW Vx, Vy, n (44_display.md R122). -/
def execDrw (x y : Reg) (n : Nibble) (s : State) : Host.Outcome State Fault Refusal :=
  .next (s.guardRange s.iAddr n.toNat (s.putCanvas (s.drawSprite x y n)))

end Sys2Proof.Machine
end

