-- ==== Sys2Proof/Machine/IndexMemory.lean ====
section
/-! DEFINITION. The index register and memory transfers (43_index_memory.md). I is the only address, and no transfer
changes it (R116). -/

namespace Sys2Proof.Machine

/-- LD I, nnn (43_index_memory.md R110). -/
def execLdI (nnn : Addr12) (s : State) : Host.Outcome State Fault Refusal := .next (s.setI (addrOfImm nnn))

/-- ADD I, Vx: modulo 65536, no flag, no range check (43_index_memory.md R111). -/
def execAddI (x : Reg) (s : State) : Host.Outcome State Fault Refusal :=
  .next (s.setI (s.ireg + wordOfByte (s.getV x)))

/-- LD F, Vx: the glyph's address (43_index_memory.md R112). -/
def execLdF (x : Reg) (s : State) : Host.Outcome State Fault Refusal :=
  .next (s.setI (glyphAddr s.config.fontStride (s.getV x)))

/-- LD B, Vx: the decimal digits of Vx at I, I + 1, I + 2 (43_index_memory.md R113). -/
def execLdB (x : Reg) (s : State) : Host.Outcome State Fault Refusal :=
  .next (s.guardRange s.iAddr 3 (s.store s.iAddr (bcdDigits (s.getV x))))

/-- LD [I], Vx: V0..Vx stored from I on (43_index_memory.md R114). -/
def execStoreRegs (x : Reg) (s : State) : Host.Outcome State Fault Refusal :=
  .next (s.guardRange s.iAddr (x.val + 1) (s.store s.iAddr (s.regsUpTo x)))

/-- LD Vx, [I]: V0..Vx loaded from I on (43_index_memory.md R115). -/
def execLoadRegs (x : Reg) (s : State) : Host.Outcome State Fault Refusal :=
  .next (s.guardRange s.iAddr (x.val + 1) (s.loadV (loadBytes s.mem s.iAddr (x.val + 1))))

end Sys2Proof.Machine
end

