-- ==== Sys2Proof/Machine/Noop.lean ====
section
/-! DEFINITION. The unknown opcodes of families 5, 8, 9, E and F: "It has no effect beyond the fetch" (40_pipeline.md R63,
30_encoding.md R56). -/

namespace Sys2Proof.Machine

/-- The effect of an unknown opcode: `skip` (40_pipeline.md R63). -/
def unknownOpcode (s : State) : Host.Outcome State Fault Refusal := .next s

/-- 5xyn with n ≠ 0 (40_pipeline.md R63). -/
def execNop5 (_x _y : Reg) (_n : Nibble) (s : State) : Host.Outcome State Fault Refusal := unknownOpcode s

/-- 8xyn with n in 8..D or F (40_pipeline.md R63). -/
def execNop8 (_x _y : Reg) (_n : Nibble) (s : State) : Host.Outcome State Fault Refusal := unknownOpcode s

/-- 9xyn with n ≠ 0 (40_pipeline.md R63). -/
def execNop9 (_x _y : Reg) (_n : Nibble) (s : State) : Host.Outcome State Fault Refusal := unknownOpcode s

/-- Exnn with nn other than 9E, A1 (40_pipeline.md R63). -/
def execNopE (_x : Reg) (_nn : Byte) (s : State) : Host.Outcome State Fault Refusal := unknownOpcode s

/-- Fxnn with an unknown nn (40_pipeline.md R63). -/
def execNopF (_x : Reg) (_nn : Byte) (s : State) : Host.Outcome State Fault Refusal := unknownOpcode s

end Sys2Proof.Machine
end

