-- ==== Sys2Proof/Machine/TimersInput.lean ====
section
/-! DEFINITION. Key tests, the key wait and the timer accesses of instructions (45_timers_input.md). -/

namespace Sys2Proof.Machine

/-- A key test: InvalidKeyIndex with Vx for a value above 0xF, else a skip where the key's state is `down`
(45_timers_input.md R131 to R133). -/
def State.keyTest (s : State) (x : Reg) (down : Bool) : State :=
  if (s.getV x).toNat > 0xF then s.raiseFatal .invalidKeyIndex (s.getV x).toNat
  else s.skipIf (isDown s.ctx.keys (s.getV x).toNat == down)

/-- SKP Vx (45_timers_input.md R131). -/
def execSkp (x : Reg) (s : State) : Host.Outcome State Fault Refusal := .next (s.keyTest x true)

/-- SKNP Vx (45_timers_input.md R132). -/
def execSknp (x : Reg) (s : State) : Host.Outcome State Fault Refusal := .next (s.keyTest x false)

/-- LD Vx, DT (45_timers_input.md R134). -/
def execLdVxDT (x : Reg) (s : State) : Host.Outcome State Fault Refusal := .next (s.setV x s.dt)

/-- The key wait: the least key down to Vx, or back to A with the result needs_input (45_timers_input.md R135). -/
def State.waitKey (s : State) (x : Reg) : State :=
  match anyDown s.ctx.keys with
  | some k => s.setV x (BitVec.ofNat 8 k)
  | none => (s.setPc (s.pc - 2)).setResult .needsInput

/-- LD Vx, K (45_timers_input.md R135). -/
def execLdVxK (x : Reg) (s : State) : Host.Outcome State Fault Refusal := .next (s.waitKey x)

/-- LD DT, Vx (45_timers_input.md R136). -/
def execLdDTVx (x : Reg) (s : State) : Host.Outcome State Fault Refusal := .next (s.setDT (s.getV x))

/-- LD ST, Vx (45_timers_input.md R137). -/
def execLdSTVx (x : Reg) (s : State) : Host.Outcome State Fault Refusal := .next (s.setST (s.getV x))

end Sys2Proof.Machine
end

