-- ==== Sys2Proof/Machine/Transactions.lean ====
section
/-! DEFINITION. What surrounds an instruction: the fetch (40_pipeline.md R60), the timer engine's tick
(60_exceptions.md R150), present (10_state.md R23), the outputs (R27), the reset with an image
(70_reset_and_hazards.md R160), and the host's inputs to each turn of its loop (40_pipeline.md R66). -/

namespace Sys2Proof.Machine

/-! ### The step's beginning and fetch -/

/-- The start of `step(keys, rnd)`: A is pc, the inputs are sampled once for the whole step (10_state.md R24), and the
result is `completed` unless the step says otherwise (40_pipeline.md R67). -/
def State.beginStep (s : State) (keys : Word) (rnd : Byte) : State :=
  { s with ctx := { addr := s.pc, word := none, keys := keys, rnd := rnd }, result := some .completed }

/-- The fetch advance: the word is this step's w, and pc goes on by 2 before dispatch (40_pipeline.md R60). -/
def State.latchWord (s : State) (w : Word) : State :=
  { s with ctx := { s.ctx with word := some w }, pc := s.pc + 2 }

/-- The fetch phase: MemoryOutOfRange with the first out-of-range address, pc left at A and no word, or the word at pc with
the state after the advance (40_pipeline.md R60, 20_memory.md R33). -/
def State.fetch (s : State) : Except State (Word × State) :=
  match rangeFault s.pc.toNat 2 with
  | some a => .error (s.raiseFatal .memoryOutOfRange a)
  | none => .ok (loadWord s.mem s.pc.toNat, s.latchWord (loadWord s.mem s.pc.toNat))

/-! ### The timer engine -/

/-- One tick of one timer under a TIMER_UNDERFLOW mode (60_exceptions.md R150). -/
def tickTimer (mode : TimerUnderflow) (t : Byte) : Byte :=
  match mode with
  | .saturate => if t.toNat > 0 then t - 1 else t
  | .wrapFromZero => t + 255
  | .reloadOnReachZero => if t.toNat ≥ 2 then t - 1 else 0xFF

/-- Both timers ticked once: "A tick reads and writes no other state" (60_exceptions.md R150). -/
def State.tickTimers (s : State) : State :=
  { s with dt := tickTimer s.config.timerUnderflow s.dt, st := tickTimer s.config.timerUnderflow s.st }

/-- One timer after `k` ticks. -/
def tickTimerTimes (mode : TimerUnderflow) (t : Byte) : Nat → Byte
  | 0 => t
  | k + 1 => tickTimer mode (tickTimerTimes mode t k)

/-- Both timers after `k` ticks; written over the two fields, so that an unknown number of ticks hides no other field
(`tickTimes_succ` in Laws/Transactions.lean: it is `tickTimers`, k times). -/
def State.tickTimes (s : State) (k : Nat) : State :=
  { s with dt := tickTimerTimes s.config.timerUnderflow s.dt k, st := tickTimerTimes s.config.timerUnderflow s.st k }

/-- `tick()`, "enabled only while `halted = none`" (60_exceptions.md R150, R141). -/
def tick (s : State) : Host.Outcome State Fault Refusal :=
  match s.halted with
  | some r => .fault (.halted r)
  | none => .next s.tickTimers

/-! ### Present and the outputs -/

/-- `present()`: the rows, and `dirty` cleared; allowed at any time (10_state.md R23, R27). -/
def present (s : State) : Vector Row 32 × State := (s.display, s.setDirty false)

/-- `sound_active = bit(ST != 0)` (10_state.md R18). -/
def State.soundActive (s : State) : Bool := s.st != 0

/-- What CORE "drives continuously" (10_state.md R27). -/
structure Outputs where
  display     : Vector Row 32
  dirty       : Bool
  soundActive : Bool
  halted      : Option FatalRecord
deriving DecidableEq, Repr

/-- The outputs of a state (10_state.md R27). -/
def State.outputs (s : State) : Outputs :=
  { display := s.display, dirty := s.dirty, soundActive := s.soundActive, halted := s.halted }

/-! ### The host's loop -/

/-- The host's choices for the next turn: the first listed, or the free ones of this step's number (log 3). -/
def State.nextInput (s : State) : HostInput :=
  match s.inputs with
  | h :: _ => h
  | [] =>
    { keys := Config.freeKeys s.seq, rnd := Config.freeRnd s.seq,
      ticks := Config.freeTicks s.seq, present := Config.freePresent s.seq }

/-- The next turn's choices taken off the list (log 3). -/
def State.consumeInput (s : State) : State := { s with inputs := s.inputs.tail, seq := s.seq + 1 }

/-- "update timers", then "present the framebuffer" (40_pipeline.md R66): the ticks only of a machine that runs
(60_exceptions.md R150), the present at any time (10_state.md R27; log 4). -/
def State.hostPhase (s : State) (h : HostInput) : State :=
  (if s.halted.isNone then s.tickTimes h.ticks else s).setDirty (s.dirty && !h.present)

/-! ### Reset -/

/-- `reset(image)` with the parameters of 00_scope.md R5: the reset values, FONT at 0x000, the first 3584 bytes of the image at
0x200, pc = 0x200 (70_reset_and_hazards.md R160 to R162). -/
def State.resetWith (c : Config) (font : Vector Byte 80) (image : List Byte) : State :=
  { State.reset with
    config := c
    mem := storeBytes (storeBytes [] 0 font.toList) Config.programBase (image.take Config.maxImage) }

end Sys2Proof.Machine
end

