-- ==== Sys2Proof/Machine/Step.lean ====
section
/-! DEFINITION. One step of CORE, and one turn of the host's loop around it (40_pipeline.md R60, R66). -/

namespace Sys2Proof.Machine

/-- The transaction `step(keys, rnd)`: enabled only while `halted = none`; fetch, advance, decode, execute
(40_pipeline.md R60). -/
def stepWith (keys : Word) (rnd : Byte) (s : State) : Host.Outcome State Fault Refusal :=
  match s.halted with
  | some r => .fault (.halted r)
  | none =>
    match (s.beginStep keys rnd).fetch with
    | .error t => .next t
    | .ok (w, t) => exec (decodeWord w) t

/-- One turn of the host's loop: `step` with the host's next inputs, then its ticks, then its present (40_pipeline.md R66,
logs 3, 4). -/
def step (s : State) : Host.Outcome State Fault Refusal :=
  match stepWith s.nextInput.keys s.nextInput.rnd s.consumeInput with
  | .next t => .next (t.hostPhase s.nextInput)
  | .fault f => .fault f
  | .refused r => .refused r

/-- The state with an instruction's word stored where the next step fetches it, at pc, high byte first (20_memory.md R35, log 10).
A state whose pc is above 0xFFE fetches nothing and is left as it is. -/
def State.withFetchWord (s : State) (nbits w : Nat) : State :=
  if s.pc.toNat + 2 ≤ Config.memSize then
    s.setMem (storeWord s.mem s.pc.toNat (BitVec.ofNat 16 (w % 2 ^ nbits)))
  else s

end Sys2Proof.Machine
end

