-- ==== Sys2Proof/Safety.lean ====
section
/-! DEFINITION. The terms claims are said in: the parts of the state and when one is unchanged, what a fatal condition leaves,
which records a fatal condition can leave, and the invariant of the machine. -/

namespace Sys2Proof.Machine

/-- The parts of State, one for each field. -/
inductive Part where
  | registers | pc | index | stack | sp | dt | st | display | memory | dirty
  | halted | config | ctx | result | inputs | seq
deriving DecidableEq, Repr

/-- A part of the state is the same in two states; memory is compared by reading each byte. -/
def Unchanged (s t : State) : Part → Prop
  | .registers => ∀ r, t.getV r = s.getV r
  | .pc => t.pc = s.pc
  | .index => t.ireg = s.ireg
  | .stack => t.stack = s.stack
  | .sp => t.sp = s.sp
  | .dt => t.dt = s.dt
  | .st => t.st = s.st
  | .display => t.display = s.display
  | .memory => ∀ a, t.byteAt a = s.byteAt a
  | .dirty => t.dirty = s.dirty
  | .halted => t.halted = s.halted
  | .config => t.config = s.config
  | .ctx => t.ctx = s.ctx
  | .result => t.result = s.result
  | .inputs => t.inputs = s.inputs
  | .seq => t.seq = s.seq

/-- Every part but those listed is unchanged. -/
def OnlyChanges (ps : List Part) (s t : State) : Prop := ∀ p, p ∉ ps → Unchanged s t p

/-- Every register but those listed is unchanged. -/
def RegsOnly (xs : List Reg) (s t : State) : Prop := ∀ r, r ∉ xs → t.getV r = s.getV r

/-- The fatal condition of a step whose address and word are in `ctx` was raised and nothing else written
(60_exceptions.md R140). -/
def FatallyHalts (kind : FatalKind) (info : Nat) (s t : State) : Prop :=
  t.halted = some { kind := kind, info := info, addr := s.ctx.addr, word := s.ctx.word } ∧
  t.result = some (.fatal { kind := kind, info := info, addr := s.ctx.addr, word := s.ctx.word }) ∧
  OnlyChanges [.halted, .result] s t

/-- The registers an instruction reads because a field of its word names them, V0 for Bnnn, and V0..Vx for Fx55
(10_state.md R12: "every condition names its registers explicitly"). -/
def readsRegs : Instr → List Reg
  | .seImm x _ | .sneImm x _ | .addImm x _ | .skp x | .sknp x | .ldDTVx x | .ldSTVx x | .addI x | .ldF x | .ldB x => [x]
  | .seReg x y | .sneReg x y | .ldReg x y | .orReg x y | .andReg x y | .xorReg x y | .addReg x y | .sub x y
  | .shr x y | .subn x y | .shl x y | .drw x y _ => [x, y]
  | .jpV0 _ => [V0]
  | .storeRegs x => (List.finRange 16).filter (· ≤ x)
  | .cls | .ret | .sys _ | .jp _ | .call _ | .nop5 _ _ _ | .ldImm _ _ | .nop8 _ _ _ | .nop9 _ _ _ | .ldI _
  | .rnd _ _ | .nopE _ _ | .ldVxDT _ | .ldVxK _ | .loadRegs _ | .nopF _ _ => []

/-- An instruction that touches memory at I: the only ones that can raise MemoryOutOfRange in the execute phase
(60_exceptions.md R142). -/
def touchesMemory : Instr → Bool
  | .drw _ _ n => n != 0
  | .ldB _ | .storeRegs _ | .loadRegs _ => true
  | .cls | .ret | .sys _ | .jp _ | .call _ | .seImm _ _ | .sneImm _ _ | .seReg _ _ | .nop5 _ _ _ | .ldImm _ _
  | .addImm _ _ | .ldReg _ _ | .orReg _ _ | .andReg _ _ | .xorReg _ _ | .addReg _ _ | .sub _ _ | .shr _ _
  | .subn _ _ | .shl _ _ | .nop8 _ _ _ | .sneReg _ _ | .nop9 _ _ _ | .ldI _ | .jpV0 _ | .rnd _ _ | .skp _
  | .sknp _ | .nopE _ _ | .ldVxDT _ | .ldVxK _ | .ldDTVx _ | .ldSTVx _ | .addI _ | .ldF _ | .nopF _ _ => false

/-- A record of 60_exceptions.md R142: its kind is one its instruction can raise, with the information that kind records. -/
def FatalRecord.Explained (r : FatalRecord) : Prop :=
  match r.kind with
  | .stackUnderflow => r.info = 0 ∧ r.word.map decodeWord = some .ret
  | .stackOverflow => r.info = 16 ∧ ∃ nnn, r.word.map decodeWord = some (.call nnn)
  | .invalidKeyIndex =>
    0xF < r.info ∧ r.info ≤ 0xFF ∧
      ∃ x, r.word.map decodeWord = some (.skp x) ∨ r.word.map decodeWord = some (.sknp x)
  | .memoryOutOfRange =>
    4096 ≤ r.info ∧ r.info ≤ 0xFFFF ∧ ∀ w, r.word = some w → touchesMemory (decodeWord w) = true

/-- What every reachable state satisfies: the memory is canonical, sp counts entries that exist (10_state.md R16), and the
machine is halted exactly when its last step's result is a fatal record, which is one of 60_exceptions.md R142. -/
structure Inv (s : State) : Prop where
  memory  : s.mem.wf = true
  stack   : s.sp ≤ 16
  halted  : ∀ r, s.halted = some r ↔ s.result = some (.fatal r)
  record  : ∀ r, s.halted = some r → r.Explained

end Sys2Proof.Machine
end

