-- ==== Sys2Proof/Certificates/Slice0/Obligations.lean ====
section
/-! DEFINITION. The statements about CORE that the provers settle. Statements about one instruction speak of its execute
phase (`exec`, 40_pipeline.md R67): the state's `ctx` holds the running step's A, w, keys and rnd, whatever they are. -/

open Sys2Proof Sys2Proof.Machine

/-! ### Encoding -/

/-- The six fields of a word (30_encoding.md R51): each is the number its bits give, `nn` is `y * 16 + n` and `nnn` is
`x * 256 + nn`. That any word decodes is the type of `decodeWord`. -/
def Obligations.FieldsOfInstructionWord : Prop :=
  ∀ w : Word,
    (opOf w).toNat = w.toNat / 4096 ∧
    (xOf w).val = w.toNat / 256 % 16 ∧
    (yOf w).val = w.toNat / 16 % 16 ∧
    (nOf w).toNat = w.toNat % 16 ∧
    (nnOf w).toNat = w.toNat % 256 ∧
    (nnnOf w).toNat = w.toNat % 4096 ∧
    (nnOf w).toNat = (yOf w).val * 16 + (nOf w).toNat ∧
    (nnnOf w).toNat = (xOf w).val * 256 + (nnOf w).toNat

/-- Decoding the bytes of a well-formed instruction gives that instruction, with every operand, and leaves the bytes after it. -/
def Obligations.DecodeOfEncodeIsIdentity : Prop :=
  ∀ (i : Instr) (rest : List Byte), i.wellFormed = true → decode (encodeBytes i ++ rest) = .ok (i, rest)

/-- Every word decodes to a well-formed instruction, and encoding that gives the word back: no bit is dropped and no word
falls to a neighbour's row. -/
def Obligations.EncodeOfDecodeIsIdentity : Prop :=
  ∀ w : Word, (decodeWord w).wellFormed = true ∧ encode (decodeWord w) = w

/-- The decoder agrees with the selection rule of the opcode table (30_encoding.md R55): for every word exactly one row is left
when the most specific mask wins, and it is the row of the decoded instruction. The rule is the spec's own inference
("[derived: from rule R54]"). -/
def Obligations.TableSelectsDecodedRow : Prop :=
  ∀ w : Word, (selectedRows w).map TableRow.id = [(decodeWord w).rowId]

/-- Words written out from 30_encoding.md R54 and 95_test_vectors.md, one or more of each family, and what they stand for. -/
def Obligations.SampleWordsDecode : Prop :=
  decodeWord 0x00E0 = .cls ∧ decodeWord 0x00EE = .ret ∧ decodeWord 0x01E0 = .sys 0x1E0 ∧
  decodeWord 0x1ABC = .jp 0xABC ∧ decodeWord 0x220A = .call 0x20A ∧ decodeWord 0x3310 = .seImm 3 0x10 ∧
  decodeWord 0x4311 = .sneImm 3 0x11 ∧ decodeWord 0x5120 = .seReg 1 2 ∧ decodeWord 0x5121 = .nop5 1 2 1 ∧
  decodeWord 0x6A7B = .ldImm 10 0x7B ∧ decodeWord 0x7101 = .addImm 1 0x01 ∧ decodeWord 0x8F14 = .addReg 15 1 ∧
  decodeWord 0x8018 = .nop8 0 1 8 ∧ decodeWord 0x9120 = .sneReg 1 2 ∧ decodeWord 0xA300 = .ldI 0x300 ∧
  decodeWord 0xB300 = .jpV0 0x300 ∧ decodeWord 0xC30F = .rnd 3 0x0F ∧ decodeWord 0xD018 = .drw 0 1 8 ∧
  decodeWord 0xE59E = .skp 5 ∧ decodeWord 0xE09F = .nopE 0 0x9F ∧ decodeWord 0xFA33 = .ldB 10 ∧
  decodeWord 0xF265 = .loadRegs 2 ∧ decodeWord 0xF0FF = .nopF 0 0xFF ∧
  decode [] = .error .truncated ∧ decode [0x12] = .error .truncated

/-! ### The step -/

/-- A step runs the decoded instruction (40_pipeline.md R60): where the two bytes at pc are those of a well-formed instruction i,
the step is the execute phase of i at the state with pc advanced by 2, A, w and the sampled inputs in `ctx` and the result
`completed`, followed by the host's phase with the same inputs (40_pipeline.md R66; the turn of the loop is the model's own
choice, logs 3 and 4). -/
def Obligations.StepRunsDecodedInstruction : Prop :=
  ∀ (s : State) (i : Instr), s.halted = none → s.pc.toNat + 2 ≤ 4096 → i.wellFormed = true →
    s.byteAt s.pc.toNat = highByte (encode i) → s.byteAt (s.pc.toNat + 1) = lowByte (encode i) →
    step s =
      match exec i { s with
        inputs := s.inputs.tail, seq := s.seq + 1, result := some .completed, pc := s.pc + 2,
        ctx := { addr := s.pc, word := some (encode i), keys := s.nextInput.keys, rnd := s.nextInput.rnd } } with
      | .next t => .next (t.hostPhase s.nextInput)
      | .fault f => .fault f
      | .refused r => .refused r

/-- The fetch at pc reads the big-endian word of the two bytes at pc and pc + 1, at any pc that leaves both in memory, odd ones
too (20_memory.md R35, R36; that no alignment is checked is the spec's decision D2, log 11). -/
def Obligations.FetchReadsBigEndianWordAtAnyPc : Prop :=
  ∀ s : State, s.pc.toNat + 2 ≤ 4096 →
    ∃ w t, s.fetch = .ok (w, t) ∧
      w.toNat = (s.byteAt s.pc.toNat).toNat * 256 + (s.byteAt (s.pc.toNat + 1)).toNat ∧
      t.pc.toNat = (s.pc.toNat + 2) % 65536 ∧ t.ctx.word = some w ∧ OnlyChanges [.pc, .ctx] s t

/-- A fetch beyond memory is fatal: MemoryOutOfRange with the first out-of-range byte address, 4096 for pc = 4095 and pc
otherwise, A = pc, no word, pc left as it is and nothing else written (20_memory.md R33, 60_exceptions.md R140; the kind is the
spec's decision D3, log 8). -/
def Obligations.FetchBeyondMemoryIsFatal : Prop :=
  ∀ (s : State) (keys : Word) (rnd : Byte), s.halted = none → 4095 ≤ s.pc.toNat →
    ∃ t, stepWith keys rnd s = .next t ∧
      t.halted = some { kind := .memoryOutOfRange, info := if s.pc.toNat = 4095 then 4096 else s.pc.toNat,
                        addr := s.pc, word := none } ∧
      (∀ r, t.halted = some r → t.result = some (.fatal r)) ∧
      OnlyChanges [.halted, .result, .ctx] s t

/-- A halted machine takes no further step and no tick, and `present` still reads its frame (60_exceptions.md R141; the spec's
decision D16, log 1). -/
def Obligations.HaltedMachineIsStuck : Prop :=
  ∀ (s : State) (r : FatalRecord), s.halted = some r →
    step s = .fault (.halted r) ∧ tick s = .fault (.halted r) ∧
    (∀ keys rnd, stepWith keys rnd s = .fault (.halted r)) ∧
    (present s).1 = s.display

/-- A running machine always has a next state: no encoding traps, no instruction stops the model, a fatal condition is itself a
next state (30_encoding.md R56, 60_exceptions.md R147; log 1). -/
def Obligations.RunningMachineAlwaysSteps : Prop :=
  ∀ s : State, s.halted = none ↔ ∃ t, step s = .next t

/-- "A step ends with exactly one of three results" (40_pipeline.md R61): completed, with the machine running; needs_input, from
Fx0A with no key down alone; or the fatal record. That a fatal step is a next state, with the record both in `halted` and as the
result, follows 60_exceptions.md R140 and 10_state.md R22, the spec's decision D16 (log 1). -/
def Obligations.StepEndsWithOneOfThreeResults : Prop :=
  ∀ (s t : State) (keys : Word) (rnd : Byte), stepWith keys rnd s = .next t →
    (t.result = some .completed ∧ t.halted = none) ∨
    (t.result = some .needsInput ∧ t.halted = none ∧ keys = 0 ∧
      ∃ x, decodeWord (loadWord s.mem s.pc.toNat) = .ldVxK x) ∨
    (∃ r, t.result = some (.fatal r) ∧ t.halted = some r)

/-- Every step keeps the invariant: memory canonical, sp in 0..16 (10_state.md R16), and a halted machine's record one that
60_exceptions.md R142 lists for its instruction, equal to the step's result. -/
def Obligations.StepKeepsInvariant : Prop :=
  ∀ s t : State, Inv s → step s = .next t → Inv t

/-- The invariant holds right after reset. -/
def Obligations.InvariantHoldsAtReset : Prop := Inv State.reset

/-- The invariant holds after a reset with any parameters, font and image, of any length. -/
def Obligations.InvariantHoldsAfterAnyImage : Prop :=
  ∀ (c : Config) (font : Vector Byte 80) (image : List Byte), Inv (State.resetWith c font image)

/-- The load rule of 70_reset_and_hazards.md R161: bytes 0..L-1 of the image at 0x200.., L = min(length, 3584), the rest of the
image dropped, an empty image leaving zeros (zero is the spec's decision D14 for memory, log 7); beside it pc (R160) and the FONT
parameter, whatever its bytes, at 0x000..0x04F (R160, R162). -/
def Obligations.ResetLoadsFontAndImage : Prop :=
  ∀ (c : Config) (font : Vector Byte 80) (image : List Byte),
    (State.resetWith c font image).pc = 0x0200 ∧
    (∀ k, k < min image.length 3584 → (State.resetWith c font image).byteAt (0x200 + k) = image.getD k 0) ∧
    State.resetWith c font image = State.resetWith c font (image.take 3584) ∧
    (image = [] → ∀ a, 0x200 ≤ a → a < 4096 → (State.resetWith c font image).byteAt a = 0) ∧
    (∀ k, k < 80 → (State.resetWith c font image).byteAt k = font.toList.getD k 0)

/-- What `reset(image)` leaves everywhere else (70_reset_and_hazards.md R160), for any parameters, font and image: the zeros, which are
the spec's decision D14 and not the source's (log 7), halted = none, and the parameters as given. State.reset is the reset with an
empty image, the default parameters (the decisions D7, D8, D11 of 00_scope.md R5, log 5) and the default FONT (general knowledge,
R162, log 6), whose bytes stand at 0x000..0x04F. -/
def Obligations.ResetValuesTheSpecDecides : Prop :=
  (∀ (c : Config) (font : Vector Byte 80) (image : List Byte),
    (∀ r, (State.resetWith c font image).getV r = 0) ∧ (State.resetWith c font image).ireg = 0 ∧
    (∀ k, (State.resetWith c font image).getS k = 0) ∧ (State.resetWith c font image).sp = 0 ∧
    (State.resetWith c font image).dt = 0 ∧ (State.resetWith c font image).st = 0 ∧
    (∀ row col, pixelOf (State.resetWith c font image).display row col = false) ∧
    (State.resetWith c font image).dirty = false ∧ (State.resetWith c font image).halted = none ∧
    (State.resetWith c font image).config = c ∧
    (∀ a, a < 4096 → 80 ≤ a → (a < 0x200 ∨ 0x200 + image.length ≤ a) → (State.resetWith c font image).byteAt a = 0)) ∧
  State.reset = State.resetWith Config.default Config.font [] ∧
  Config.default = { shiftSource := .vx, timerUnderflow := .saturate, fontStride := .design } ∧
  (List.range 80).map State.reset.byteAt =
    [0xF0, 0x90, 0x90, 0x90, 0xF0] ++ [0x20, 0x60, 0x20, 0x20, 0x70] ++ [0xF0, 0x10, 0xF0, 0x80, 0xF0] ++
    [0xF0, 0x10, 0xF0, 0x10, 0xF0] ++ [0x90, 0x90, 0xF0, 0x10, 0x10] ++ [0xF0, 0x80, 0xF0, 0x10, 0xF0] ++
    [0xF0, 0x80, 0xF0, 0x90, 0xF0] ++ [0xF0, 0x10, 0x20, 0x40, 0x40] ++ [0xF0, 0x90, 0xF0, 0x90, 0xF0] ++
    [0xF0, 0x90, 0xF0, 0x10, 0xF0] ++ [0xF0, 0x90, 0xF0, 0x90, 0x90] ++ [0xE0, 0x90, 0xE0, 0x90, 0xE0] ++
    [0xF0, 0x80, 0x80, 0x80, 0xF0] ++ [0xE0, 0x90, 0x90, 0x90, 0xE0] ++ [0xF0, 0x80, 0xF0, 0x80, 0xF0] ++
    [0xF0, 0x80, 0xF0, 0x80, 0x80]

/-- "the engine itself is stateless between steps" (40_pipeline.md R62): a step depends on nothing the last step left in the model's
own fields `ctx` and `result`. -/
def Obligations.StepForgetsLastStep : Prop :=
  ∀ (s : State) (ctx : StepContext) (result : Option StepResult),
    step { s with ctx := ctx, result := result } = step s

/-- The host's phase (40_pipeline.md R66): the given number of ticks of each timer, none for a halted machine, then `dirty`
cleared where the host presents; nothing else. `present` itself returns the rows and clears dirty alone, halted or not (10_state.md
R23, R27). The phase's place after the step is the model's choice (log 4), and that present clears the mark the spec's inference (log 17). -/
def Obligations.HostPhaseTicksThenPresents : Prop :=
  ∀ (s : State) (h : HostInput),
    (s.halted = none →
      (s.hostPhase h).dt = (tickTimer s.config.timerUnderflow)^[h.ticks] s.dt ∧
      (s.hostPhase h).st = (tickTimer s.config.timerUnderflow)^[h.ticks] s.st) ∧
    (s.halted ≠ none → (s.hostPhase h).dt = s.dt ∧ (s.hostPhase h).st = s.st) ∧
    (s.hostPhase h).dirty = (s.dirty && !h.present) ∧
    OnlyChanges [.dt, .st, .dirty] s (s.hostPhase h) ∧
    (present s).1 = s.display ∧ (present s).2.dirty = false ∧ OnlyChanges [.dirty] s (present s).2

/-- Each turn of the loop takes the host's next listed inputs off the list, counts the step, and changes no parameter of the build
(00_scope.md R5; the list and the counter are the model's own, logs 3 and 5). -/
def Obligations.StepConsumesOneInputAndKeepsConfig : Prop :=
  ∀ s t : State, step s = .next t →
    t.inputs = s.inputs.tail ∧ t.seq = s.seq + 1 ∧ t.config = s.config ∧
    t.ctx.keys = s.nextInput.keys ∧ t.ctx.rnd = s.nextInput.rnd ∧ t.ctx.addr = s.pc

/-- A fatal condition leaves the state before the step but for `halted`, the result and pc, which is A + 2 in the execute phase and
A in the fetch (60_exceptions.md R140; the spec's decision D16, log 1). -/
def Obligations.FatalStepWritesNothingElse : Prop :=
  ∀ (s t : State) (keys : Word) (rnd : Byte) (r : FatalRecord), stepWith keys rnd s = .next t → t.halted = some r →
    r.addr = s.pc ∧
    (r.word = none → t.pc = s.pc) ∧
    (∀ w, r.word = some w → t.pc = s.pc + 2 ∧ w = loadWord s.mem s.pc.toNat) ∧
    OnlyChanges [.halted, .result, .pc, .ctx] s t

/-! ### No-ops and control transfer -/

/-- SYS and the unknown opcodes of every family have no effect beyond the fetch: the execute phase changes nothing, so pc stays at
A + 2 and the result is `completed` (41_control.md R70, 40_pipeline.md R63). -/
def Obligations.SysAndUnknownOpcodesDoNothing : Prop :=
  ∀ (s : State) (x y : Reg) (n : Nibble) (nn : Byte) (nnn : Addr12) (i : Instr),
    i ∈ [Instr.sys nnn, .nop5 x y n, .nop8 x y n, .nop9 x y n, .nopE x nn, .nopF x nn] →
    (∃ t, exec i s = .next t ∧ OnlyChanges [] s t) ∧
    (∀ keys rnd, s.halted = none → s.pc.toNat + 2 ≤ 4096 → decodeWord (loadWord s.mem s.pc.toNat) = i →
      ∃ t, stepWith keys rnd s = .next t ∧ t.pc.toNat = (s.pc.toNat + 2) % 65536 ∧ t.result = some .completed ∧
        OnlyChanges [.pc, .ctx, .result] s t)

/-- RET pops the return address, and is StackUnderflow with info 0 on an empty stack (41_control.md R71). That the popped entry stays in
the stack is the spec's decision D23 (log 24), and the state the underflow leaves its decision D16 (log 1). -/
def Obligations.RetPopsOrUnderflows : Prop :=
  ∀ s : State,
    (0 < s.sp → s.sp ≤ 16 →
      ∃ t, exec .ret s = .next t ∧ t.pc = s.stack.toList.getD (s.sp - 1) 0 ∧ t.sp = s.sp - 1 ∧ OnlyChanges [.pc, .sp] s t) ∧
    (s.sp = 0 → ∃ t, exec .ret s = .next t ∧ FatallyHalts .stackUnderflow 0 s t)

/-- CALL pushes the advanced pc and jumps, and is StackOverflow with info 16 on a full stack, with nothing written
(41_control.md R73). The state the overflow leaves, the record in `halted` and as the result and pc kept, is the spec's decision D16
(log 1). -/
def Obligations.CallPushesOrOverflows : Prop :=
  ∀ (s : State) (nnn : Addr12),
    (s.sp < 16 →
      ∃ t, exec (.call nnn) s = .next t ∧ t.pc.toNat = nnn.toNat ∧ t.sp = s.sp + 1 ∧
        t.stack.toList.getD s.sp 0 = s.pc ∧ (∀ k, k ≠ s.sp → t.stack.toList.getD k 0 = s.stack.toList.getD k 0) ∧
        OnlyChanges [.pc, .sp, .stack] s t) ∧
    (s.sp = 16 → ∃ t, exec (.call nnn) s = .next t ∧ FatallyHalts .stackOverflow 16 s t)

/-- JP jumps to nnn, odd targets too (41_control.md R72). -/
def Obligations.JumpReplacesPc : Prop :=
  ∀ (s : State) (nnn : Addr12),
    ∃ t, exec (.jp nnn) s = .next t ∧ t.pc.toNat = nnn.toNat ∧ OnlyChanges [.pc] s t

/-- JP V0 jumps to nnn + V0, whatever the field x of its word; the sum is not reduced to 12 bits (41_control.md R78; the spec's
decision D4, log 11). -/
def Obligations.JumpV0AddsV0ToTarget : Prop :=
  ∀ (s : State) (nnn : Addr12),
    ∃ t, exec (.jpV0 nnn) s = .next t ∧ t.pc.toNat = nnn.toNat + (s.getV 0).toNat ∧ OnlyChanges [.pc] s t

/-- SE and SNE, with an immediate and with a register: 2 bytes are skipped on equality and on inequality, whatever the next word is; with
x = y, SE always skips and SNE never does (41_control.md R74, R75, R76, R77). -/
def Obligations.ConditionalSkips : Prop :=
  ∀ (s : State) (x y : Reg) (nn : Byte),
    (∃ t, exec (.seImm x nn) s = .next t ∧ OnlyChanges [.pc] s t ∧
      t.pc.toNat = (if s.getV x = nn then (s.pc.toNat + 2) % 65536 else s.pc.toNat)) ∧
    (∃ t, exec (.sneImm x nn) s = .next t ∧ OnlyChanges [.pc] s t ∧
      t.pc.toNat = (if s.getV x ≠ nn then (s.pc.toNat + 2) % 65536 else s.pc.toNat)) ∧
    (∃ t, exec (.seReg x y) s = .next t ∧ OnlyChanges [.pc] s t ∧
      t.pc.toNat = (if s.getV x = s.getV y then (s.pc.toNat + 2) % 65536 else s.pc.toNat)) ∧
    (∃ t, exec (.sneReg x y) s = .next t ∧ OnlyChanges [.pc] s t ∧
      t.pc.toNat = (if s.getV x ≠ s.getV y then (s.pc.toNat + 2) % 65536 else s.pc.toNat))

/-- A CALL and a RET after it, with any number of instructions between them that leave sp and the stack as they found them, come back
to the instruction after the CALL with the stack pointer as it was (41_control.md R71, R73). -/
def Obligations.CallThenRetReturns : Prop :=
  ∀ (s t u : State) (nnn : Addr12), s.sp < 16 → exec (.call nnn) s = .next t → u.sp = t.sp → u.stack = t.stack →
    ∃ v, exec .ret u = .next v ∧ v.pc = s.pc ∧ v.sp = s.sp ∧ (∀ k, k < s.sp → v.getS k = s.getS k)

/-- "2nnn increments sp and 00EE decrements it", and their checks keep 0 ≤ sp ≤ 16 (10_state.md R16): no other instruction changes sp.
Only 2nnn writes an entry of the stack (R15); that RET leaves the entry it reads is the spec's decision D23 (log 24), and that a fatal
step leaves sp its decision D16 (log 1). -/
def Obligations.OnlyCallAndRetMoveTheStack : Prop :=
  ∀ (i : Instr) (s t : State), exec i s = .next t →
    (s.sp ≤ 16 → t.sp ≤ 16) ∧
    ((∀ nnn, i ≠ .call nnn) → t.stack = s.stack ∧ (i ≠ .ret → t.sp = s.sp)) ∧
    (∀ nnn, i = .call nnn → (s.sp < 16 → t.sp = s.sp + 1) ∧
      (s.sp = 16 → t.sp = 16 ∧ t.halted.map FatalRecord.kind = some .stackOverflow)) ∧
    (i = .ret → t.stack = s.stack ∧ (0 < s.sp → t.sp = s.sp - 1) ∧
      (s.sp = 0 → t.sp = 0 ∧ t.halted.map FatalRecord.kind = some .stackUnderflow))

/-! ### Loads, arithmetic and logic -/

/-- LD Vx, nn; ADD Vx, nn modulo 256 with no flag; LD Vx, Vy (42_alu.md R90, R91, R92). -/
def Obligations.LoadsAndAddImmediate : Prop :=
  ∀ (s : State) (x y : Reg) (nn : Byte),
    (∃ t, exec (.ldImm x nn) s = .next t ∧ t.getV x = nn ∧ RegsOnly [x] s t ∧ OnlyChanges [.registers] s t) ∧
    (∃ t, exec (.addImm x nn) s = .next t ∧ (t.getV x).toNat = ((s.getV x).toNat + nn.toNat) % 256 ∧
      RegsOnly [x] s t ∧ OnlyChanges [.registers] s t) ∧
    (∃ t, exec (.ldReg x y) s = .next t ∧ t.getV x = s.getV y ∧ RegsOnly [x] s t ∧ OnlyChanges [.registers] s t)

/-- OR, AND and XOR, bit by bit, with VF left alone unless it is the destination (42_alu.md R93, R94, R95). -/
def Obligations.LogicOperations : Prop :=
  ∀ (s : State) (x y : Reg),
    (∃ t, exec (.orReg x y) s = .next t ∧ RegsOnly [x] s t ∧ OnlyChanges [.registers] s t ∧
      ∀ k, k < 8 → (t.getV x).getLsbD k = ((s.getV x).getLsbD k || (s.getV y).getLsbD k)) ∧
    (∃ t, exec (.andReg x y) s = .next t ∧ RegsOnly [x] s t ∧ OnlyChanges [.registers] s t ∧
      ∀ k, k < 8 → (t.getV x).getLsbD k = ((s.getV x).getLsbD k && (s.getV y).getLsbD k)) ∧
    (∃ t, exec (.xorReg x y) s = .next t ∧ RegsOnly [x] s t ∧ OnlyChanges [.registers] s t ∧
      ∀ k, k < 8 → (t.getV x).getLsbD k = ((s.getV x).getLsbD k != (s.getV y).getLsbD k))

/-- ADD Vx, Vy: Vx gets the sum modulo 256, and VF, where it is not Vx, the carry of the exact sum (42_alu.md R96). That with x = 0xF
the result stays in VF is the spec's decision D6 (R102, log 12). -/
def Obligations.AddSetsCarry : Prop :=
  ∀ (s : State) (x y : Reg),
    ∃ t, exec (.addReg x y) s = .next t ∧
      (t.getV x).toNat = ((s.getV x).toNat + (s.getV y).toNat) % 256 ∧
      (x ≠ VF → t.getV VF = if (s.getV x).toNat + (s.getV y).toNat > 255 then 1 else 0) ∧
      RegsOnly [x, VF] s t ∧ OnlyChanges [.registers] s t

/-- SUB and SUBN: the difference modulo 256, and the not-borrow in VF where it is not Vx: 1 only where minuend > subtrahend
(42_alu.md R97, R99). That the flag is 0 for equal operands is how 90_conflicts.md C1 settles a conflict of the source (log 13), and that
with x = 0xF the result stays in VF the spec's decision D6 (R102, log 12). -/
def Obligations.SubtractionsSetStrictNotBorrow : Prop :=
  ∀ (s : State) (x y : Reg),
    (∃ t, exec (.sub x y) s = .next t ∧
      (t.getV x).toNat = ((s.getV x).toNat + 256 - (s.getV y).toNat) % 256 ∧
      (x ≠ VF → t.getV VF = if (s.getV x).toNat > (s.getV y).toNat then 1 else 0) ∧
      RegsOnly [x, VF] s t ∧ OnlyChanges [.registers] s t) ∧
    (∃ t, exec (.subn x y) s = .next t ∧
      (t.getV x).toNat = ((s.getV y).toNat + 256 - (s.getV x).toNat) % 256 ∧
      (x ≠ VF → t.getV VF = if (s.getV y).toNat > (s.getV x).toNat then 1 else 0) ∧
      RegsOnly [x, VF] s t ∧ OnlyChanges [.registers] s t)

/-- SHR and SHL of the source SHIFT_SOURCE names, for both values of the parameter: the result, and the bit shifted out in VF where
it is not Vx (42_alu.md R98, R100; the parameter and its default vx are the spec's decision D7, log 5). That with x = 0xF the result
stays in VF is the spec's decision D6 (R102, log 12). -/
def Obligations.ShiftsSetShiftedOutBit : Prop :=
  ∀ (s : State) (x y : Reg) (src : Byte),
    ((s.config.shiftSource = .vx ∧ src = s.getV x) ∨ (s.config.shiftSource = .vy ∧ src = s.getV y)) →
    (∃ t, exec (.shr x y) s = .next t ∧ (t.getV x).toNat = src.toNat / 2 ∧
      (x ≠ VF → (t.getV VF).toNat = src.toNat % 2) ∧ RegsOnly [x, VF] s t ∧ OnlyChanges [.registers] s t) ∧
    (∃ t, exec (.shl x y) s = .next t ∧ (t.getV x).toNat = src.toNat * 2 % 256 ∧
      (x ≠ VF → (t.getV VF).toNat = src.toNat / 128) ∧ RegsOnly [x, VF] s t ∧ OnlyChanges [.registers] s t)

/-- RND: the step's random byte ANDed with nn, whatever that byte is (42_alu.md R101); nn = 0 gives 0, nn = 0xFF the byte. -/
def Obligations.RandomByteIsMasked : Prop :=
  ∀ (s : State) (x : Reg) (nn : Byte),
    ∃ t, exec (.rnd x nn) s = .next t ∧
      (∀ k, k < 8 → (t.getV x).getLsbD k = (s.ctx.rnd.getLsbD k && nn.getLsbD k)) ∧
      RegsOnly [x] s t ∧ OnlyChanges [.registers] s t

/-- A register changes only by an instruction whose destination it is, or, for VF, by one of the six instructions that write a flag
(10_state.md R11): the frame of the register file over the whole instruction set. -/
def Obligations.OnlyNamedRegistersChange : Prop :=
  ∀ (i : Instr) (s t : State) (r : Reg), exec i s = .next t → t.getV r ≠ s.getV r →
    (∃ nn, i = .ldImm r nn) ∨ (∃ nn, i = .addImm r nn) ∨ (∃ nn, i = .rnd r nn) ∨
    (∃ y, i = .ldReg r y ∨ i = .orReg r y ∨ i = .andReg r y ∨ i = .xorReg r y ∨ i = .addReg r y ∨ i = .sub r y ∨
      i = .shr r y ∨ i = .subn r y ∨ i = .shl r y) ∨
    i = .ldVxDT r ∨ i = .ldVxK r ∨ (∃ x, i = .loadRegs x ∧ r ≤ x) ∨
    (r = VF ∧ ∃ x y, i = .addReg x y ∨ i = .sub x y ∨ i = .shr x y ∨ i = .subn x y ∨ i = .shl x y ∨ ∃ n, i = .drw x y n)

/-- "No instruction reads VF implicitly as a condition" (10_state.md R12, the spec's inference from its catalog): an instruction that
neither names register 0xF nor transfers it behaves the same whatever VF holds, but for VF itself. -/
def Obligations.NoImplicitReadOfVF : Prop :=
  ∀ (i : Instr) (s t : State) (b : Byte), VF ∉ readsRegs i → exec i s = .next t →
    ∃ u, exec i (s.setV VF b) = .next u ∧ u.setV VF 0 = t.setV VF 0

/-! ### Index register and memory transfers -/

/-- LD I, nnn (43_index_memory.md R110). -/
def Obligations.LoadIndexImmediate : Prop :=
  ∀ (s : State) (nnn : Addr12),
    ∃ t, exec (.ldI nnn) s = .next t ∧ t.ireg.toNat = nnn.toNat ∧ t.ireg.toNat ≤ 0xFFF ∧ OnlyChanges [.index] s t

/-- ADD I, Vx modulo 65536 with no flag, and LD F, Vx, for both values of FONT_STRIDE, with no nibble mask (43_index_memory.md R111,
R112; the width, the stride and the missing mask are the spec's decisions D5 and D11, logs 5, 11, 14). -/
def Obligations.IndexArithmetic : Prop :=
  ∀ (s : State) (x : Reg),
    (∃ t, exec (.addI x) s = .next t ∧ t.ireg.toNat = (s.ireg.toNat + (s.getV x).toNat) % 65536 ∧
      OnlyChanges [.index] s t) ∧
    (∃ t, exec (.ldF x) s = .next t ∧ OnlyChanges [.index] s t ∧
      (s.config.fontStride = .design → t.ireg.toNat = (s.getV x).toNat * 5) ∧
      (s.config.fontStride = .observed → t.ireg.toNat = (s.getV x).toNat))

/-- LD B, Vx in range: the three decimal digits, most significant first, at I, I + 1, I + 2, which give the value back; every other
byte and I are unchanged (43_index_memory.md R113; that I is unchanged is the spec's decision D12, log 14). -/
def Obligations.BcdStoresDecimalDigits : Prop :=
  ∀ (s : State) (x : Reg), s.mem.wf = true → s.iAddr + 3 ≤ 4096 →
    ∃ t, exec (.ldB x) s = .next t ∧
      (t.byteAt s.iAddr).toNat = (s.getV x).toNat / 100 ∧
      (t.byteAt (s.iAddr + 1)).toNat = (s.getV x).toNat / 10 % 10 ∧
      (t.byteAt (s.iAddr + 2)).toNat = (s.getV x).toNat % 10 ∧
      (∀ a, a < s.iAddr ∨ s.iAddr + 3 ≤ a → t.byteAt a = s.byteAt a) ∧ OnlyChanges [.memory] s t

/-- LD [I], Vx in range: Vk at I + k for each k ≤ x; every other byte and I are unchanged (43_index_memory.md R114; D12, log 14). -/
def Obligations.StoreRegistersWritesEachByte : Prop :=
  ∀ (s : State) (x : Reg), s.mem.wf = true → s.iAddr + (x.val + 1) ≤ 4096 →
    ∃ t, exec (.storeRegs x) s = .next t ∧
      (∀ k : Reg, k ≤ x → t.byteAt (s.iAddr + k.val) = s.getV k) ∧
      (∀ a, a < s.iAddr ∨ s.iAddr + (x.val + 1) ≤ a → t.byteAt a = s.byteAt a) ∧ OnlyChanges [.memory] s t

/-- LD Vx, [I] in range: Vk gets the byte at I + k for each k ≤ x; the registers above x, memory and I are unchanged
(43_index_memory.md R115; D12, log 14). -/
def Obligations.LoadRegistersReadsEachByte : Prop :=
  ∀ (s : State) (x : Reg), s.iAddr + (x.val + 1) ≤ 4096 →
    ∃ t, exec (.loadRegs x) s = .next t ∧
      (∀ k : Reg, k ≤ x → t.getV k = s.byteAt (s.iAddr + k.val)) ∧
      (∀ k : Reg, x < k → t.getV k = s.getV k) ∧ OnlyChanges [.registers] s t

/-- A transfer or a draw that touches an address of 4096 or more is fatal, with the lowest such address, and writes no byte, no
register and no pixel (20_memory.md R32, R34; 44_display.md R122; the kind and the check before any write are the spec's decisions D3
and D16, log 8). -/
def Obligations.OutOfRangeTransfersAreFatal : Prop :=
  ∀ (s : State) (x y : Reg) (n : Nibble),
    (4096 < s.iAddr + 3 → ∃ t, exec (.ldB x) s = .next t ∧ FatallyHalts .memoryOutOfRange (max s.iAddr 4096) s t) ∧
    (4096 < s.iAddr + (x.val + 1) →
      (∃ t, exec (.storeRegs x) s = .next t ∧ FatallyHalts .memoryOutOfRange (max s.iAddr 4096) s t) ∧
      (∃ t, exec (.loadRegs x) s = .next t ∧ FatallyHalts .memoryOutOfRange (max s.iAddr 4096) s t)) ∧
    (n ≠ 0 → 4096 < s.iAddr + n.toNat →
      ∃ t, exec (.drw x y n) s = .next t ∧ FatallyHalts .memoryOutOfRange (max s.iAddr 4096) s t)

/-- Storing V0..Vx and loading them back, with any states between them that keep I and those bytes, gives the registers back
(43_index_memory.md R114, R115; 95_test_vectors.md V-MEM). That the store itself leaves I is the spec's decision D12 (log 14). -/
def Obligations.StoreThenLoadRestoresRegisters : Prop :=
  ∀ (s t u : State) (x : Reg), s.mem.wf = true → s.iAddr + (x.val + 1) ≤ 4096 → exec (.storeRegs x) s = .next t →
    u.ireg = t.ireg → (∀ a, s.iAddr ≤ a → a < s.iAddr + (x.val + 1) → u.byteAt a = t.byteAt a) →
    ∃ v, exec (.loadRegs x) u = .next v ∧ ∀ k : Reg, k ≤ x → v.getV k = s.getV k

/-- Only Fx33 and Fx55 store to memory (20_memory.md R37), and I is written by Annn, Fx1E and Fx29 alone (10_state.md R14). That Dxyn,
Fx33, Fx55 and Fx65 leave I unchanged is the spec's decision D12, marked in R14 itself (log 14). -/
def Obligations.OnlyStoresWriteMemoryAndLoadsWriteI : Prop :=
  ∀ (i : Instr) (s t : State), exec i s = .next t →
    ((∀ x, i ≠ .ldB x) → (∀ x, i ≠ .storeRegs x) → t.mem = s.mem) ∧
    ((∀ nnn, i ≠ .ldI nnn) → (∀ x, i ≠ .addI x) → (∀ x, i ≠ .ldF x) → t.ireg = s.ireg)

/-! ### Memory -/

/-- A read gives the last byte written to its address, and what was there before elsewhere, for any run of bytes stored below 4096
(20_memory.md R38, R42). -/
def Obligations.ReadsSeeTheLastWrite : Prop :=
  ∀ (s : State) (base : Nat) (bs : List Byte), s.mem.wf = true → base + bs.length ≤ 4096 →
    (∀ k, k < bs.length → (s.store base bs).byteAt (base + k) = bs.getD k 0) ∧
    (∀ a, a < base ∨ base + bs.length ≤ a → (s.store base bs).byteAt a = s.byteAt a) ∧
    (s.store base bs).mem.wf = true

/-- Two canonical memories with the same bytes are the same list: equal memories are equal data. -/
def Obligations.CanonicalMemoriesAreUnique : Prop :=
  ∀ m m' : Memory, m.wf = true → m'.wf = true → (∀ a, m.get a = m'.get a) → m = m'

/-- A store is seen by the fetch of every later step, with no fence (20_memory.md R45, the spec's inference): after Fx55 or Fx33 in
range, a step of any later state u whose memory is still what the store left (the next step's first of all) executes the word of the
bytes stored at u.pc and u.pc + 1, each of the two taken from before the store where the store does not reach it. -/
def Obligations.StoredInstructionRunsNext : Prop :=
  ∀ (s t u : State) (i : Instr) (x : Reg) (bs : List Byte) (keys : Word) (rnd : Byte), s.mem.wf = true →
    ((i = .storeRegs x ∧ bs = s.regsUpTo x) ∨ (i = .ldB x ∧ bs = bcdDigits (s.getV x))) →
    s.iAddr + bs.length ≤ 4096 → exec i s = .next t →
    u.mem = t.mem → u.halted = none → u.pc.toNat + 2 ≤ 4096 →
    ∃ hi lo : Byte,
      hi = (if s.iAddr ≤ u.pc.toNat ∧ u.pc.toNat < s.iAddr + bs.length then bs.getD (u.pc.toNat - s.iAddr) 0
            else s.byteAt u.pc.toNat) ∧
      lo = (if s.iAddr ≤ u.pc.toNat + 1 ∧ u.pc.toNat + 1 < s.iAddr + bs.length then bs.getD (u.pc.toNat + 1 - s.iAddr) 0
            else s.byteAt (u.pc.toNat + 1)) ∧
      stepWith keys rnd u = exec (decodeWord (wordOfBytes hi lo))
        { u with pc := u.pc + 2, result := some .completed,
                 ctx := { addr := u.pc, word := some (wordOfBytes hi lo), keys := keys, rnd := rnd } }

/-! ### Display -/

/-- CLS: every pixel dark, dirty set, nothing else changed (44_display.md R120); so a clear, any draw and another clear end with the
display of the first clear, all dark (R127). That dirty is set from every display, a blank one too, is the spec's decision D19
(10_state.md R21, log 17). -/
def Obligations.ClearBlanksEveryPixel : Prop :=
  ∀ s : State,
    ∃ t, exec .cls s = .next t ∧ (∀ row col, pixelOf t.display row col = false) ∧ t.dirty = true ∧
      OnlyChanges [.display, .dirty] s t ∧
      ∀ (x y : Reg) (n : Nibble), ∃ u v, exec (.drw x y n) t = .next u ∧ exec .cls u = .next v ∧ v.display = t.display

/-- DRW in range, pixel by pixel: sprite row i, column offset j is bit 7 - j of the byte at I + i and targets row (Vy + i) mod 32 and
column (Vx + j) mod 64 (44_display.md R121). A pixel is toggled exactly when it is the target of a 1 bit (R123), and VF is 1 exactly
when a 1 bit's target was lit before the draw, else 0 (R124). With n = 0 nothing is drawn and VF is 0, which the spec infers in R122;
that the coordinates are the old values where x or y is 0xF is its decision D6 (R122, log 12). -/
def Obligations.DrawTogglesExactlyTheSpritePixels : Prop :=
  ∀ (s : State) (x y : Reg) (n : Nibble), n = 0 ∨ s.iAddr + n.toNat ≤ 4096 →
    ∃ t, exec (.drw x y n) s = .next t ∧
      (∀ row col, row < 32 → col < 64 →
        (pixelOf t.display row col ≠ pixelOf s.display row col ↔
          ∃ i j, i < n.toNat ∧ j < 8 ∧ (s.byteAt (s.iAddr + i)).getLsbD (7 - j) = true ∧
            row = ((s.getV y).toNat + i) % 32 ∧ col = ((s.getV x).toNat + j) % 64)) ∧
      (t.getV VF = 1 ∨ t.getV VF = 0) ∧
      (t.getV VF = 1 ↔
        ∃ i j, i < n.toNat ∧ j < 8 ∧ (s.byteAt (s.iAddr + i)).getLsbD (7 - j) = true ∧
          pixelOf s.display (((s.getV y).toNat + i) % 32) (((s.getV x).toNat + j) % 64) = true)

/-- DRW in range sets dirty, even for n = 0 or no change, and changes only the display, VF and dirty: I, memory and pc stay
(44_display.md R122; when dirty is set is the spec's decision D19, log 17, and that I stays its decision D12, log 14). -/
def Obligations.DrawFrame : Prop :=
  ∀ (s : State) (x y : Reg) (n : Nibble), n = 0 ∨ s.iAddr + n.toNat ≤ 4096 →
    ∃ t, exec (.drw x y n) s = .next t ∧ t.dirty = true ∧ RegsOnly [VF] s t ∧
      OnlyChanges [.display, .registers, .dirty] s t ∧
      (n = 0 → t.display = s.display ∧ t.getV VF = 0)

/-- "Sprite draw is self-inverse under immediate re-draw" (44_display.md R127): the second of two draws with the same coordinates, I and
sprite bytes restores the display, where x and y are not VF or the first draw left VF as it was (the spec's inferred conditions; that the
first draw leaves I is its decision D12, log 14). The second draw's VF is 1 exactly when some 1 bit's target was dark before the first
draw, as R122 and R124 give it; so it is 1 whenever the sprite has a 1 bit and the first draw hit no lit pixel, as in the instance of
95_test_vectors.md W4 (log 27). -/
def Obligations.DrawTwiceRestoresTheDisplay : Prop :=
  ∀ (s t : State) (x y : Reg) (n : Nibble), (n = 0 ∨ s.iAddr + n.toNat ≤ 4096) → exec (.drw x y n) s = .next t →
    ((x ≠ VF ∧ y ≠ VF) ∨ t.getV VF = s.getV VF) →
    ∃ u, exec (.drw x y n) t = .next u ∧ u.display = s.display ∧
      (u.getV VF = 1 ↔ ∃ i j, i < n.toNat ∧ j < 8 ∧ (s.byteAt (s.iAddr + i)).getLsbD (7 - j) = true ∧
        pixelOf s.display (((s.getV y).toNat + i) % 32) (((s.getV x).toNat + j) % 64) = false) ∧
      (t.getV VF = 0 → (∃ i j, i < n.toNat ∧ j < 8 ∧ (s.byteAt (s.iAddr + i)).getLsbD (7 - j) = true) → u.getV VF = 1)

/-- The spec's remark "The second draw's VF is 1 whenever the sprite has at least one 1 bit" (44_display.md R127, inside its inferred
conditions), taken of every display. It contradicts R122 and R124 where every target of the sprite was lit before the first draw, so it is
expected to FAIL of this model, which follows those rules (log 27). -/
def Obligations.SecondDrawAlwaysCollides : Prop :=
  ∀ (s t u : State) (x y : Reg) (n : Nibble), x ≠ VF → y ≠ VF → s.iAddr + n.toNat ≤ 4096 →
    exec (.drw x y n) s = .next t → exec (.drw x y n) t = .next u →
    (∃ i j, i < n.toNat ∧ j < 8 ∧ (s.byteAt (s.iAddr + i)).getLsbD j = true) → u.getV VF = 1

/-- "Only 00E0 and Dxyn write the display" (10_state.md R19), and only they set dirty (R21); the display's contents are read by no
other instruction than Dxyn. -/
def Obligations.OnlyClearAndDrawTouchTheDisplay : Prop :=
  ∀ (i : Instr) (s t : State), i ≠ .cls → (∀ x y n, i ≠ .drw x y n) → exec i s = .next t →
    t.display = s.display ∧ t.dirty = s.dirty ∧
    (∀ (d : Vector Row 32) (b : Bool), exec i ((s.setDisplay d).setDirty b) = .next ((t.setDisplay d).setDirty b))

/-! ### Timers, keys, present -/

/-- SKP and SKNP: InvalidKeyIndex with Vx above 0xF, before anything is written, else a skip by the key's state (45_timers_input.md
R131, R132, R133). That the state is the level sampled for the step is the spec's decision D18 (R130, log 16), and the state a fatal
condition leaves its decision D16 (log 1). -/
def Obligations.KeySkips : Prop :=
  ∀ (s : State) (x : Reg),
    ((s.getV x).toNat ≤ 0xF →
      (∃ t, exec (.skp x) s = .next t ∧ OnlyChanges [.pc] s t ∧
        t.pc.toNat = (if s.ctx.keys.getLsbD (s.getV x).toNat then (s.pc.toNat + 2) % 65536 else s.pc.toNat)) ∧
      (∃ t, exec (.sknp x) s = .next t ∧ OnlyChanges [.pc] s t ∧
        t.pc.toNat = (if s.ctx.keys.getLsbD (s.getV x).toNat then s.pc.toNat else (s.pc.toNat + 2) % 65536))) ∧
    (0xF < (s.getV x).toNat →
      (∃ t, exec (.skp x) s = .next t ∧ FatallyHalts .invalidKeyIndex (s.getV x).toNat s t) ∧
      (∃ t, exec (.sknp x) s = .next t ∧ FatallyHalts .invalidKeyIndex (s.getV x).toNat s t))

/-- LD Vx, K with a key down: the least index goes to Vx and the step completes; with none down: pc back by 2, the result
needs_input, and nothing else changed (45_timers_input.md R135, R130). That a key already down is taken at once, by its level in
this step's sample, is the spec's decision D18 (R130, log 16). -/
def Obligations.KeyWaitTakesLeastKeyOrRetries : Prop :=
  ∀ (s : State) (x : Reg),
    (∀ k, k < 16 → s.ctx.keys.getLsbD k = true → (∀ j, j < k → s.ctx.keys.getLsbD j = false) →
      ∃ t, exec (.ldVxK x) s = .next t ∧ (t.getV x).toNat = k ∧ RegsOnly [x] s t ∧ OnlyChanges [.registers] s t) ∧
    (s.ctx.keys = 0 →
      ∃ t, exec (.ldVxK x) s = .next t ∧ t.pc.toNat = (s.pc.toNat + 65534) % 65536 ∧ t.result = some .needsInput ∧
        OnlyChanges [.pc, .result] s t)

/-- LD Vx, DT; LD DT, Vx; LD ST, Vx (45_timers_input.md R134, R136, R137), the sound output following ST at once. -/
def Obligations.TimerTransfers : Prop :=
  ∀ (s : State) (x : Reg),
    (∃ t, exec (.ldVxDT x) s = .next t ∧ t.getV x = s.dt ∧ RegsOnly [x] s t ∧ OnlyChanges [.registers] s t) ∧
    (∃ t, exec (.ldDTVx x) s = .next t ∧ t.dt = s.getV x ∧ OnlyChanges [.dt] s t) ∧
    (∃ t, exec (.ldSTVx x) s = .next t ∧ t.st = s.getV x ∧ (t.outputs.soundActive = true ↔ s.getV x ≠ 0) ∧
      OnlyChanges [.st] s t)

/-- Fx15 alone writes DT and Fx18 alone writes ST (10_state.md R17, R18); Fx07 alone reads DT, and no instruction reads ST (that is the
spec's inference from its catalog). -/
def Obligations.OnlyTimerInstructionsUseTimers : Prop :=
  ∀ (i : Instr) (s t : State), exec i s = .next t →
    ((∀ x, i ≠ .ldDTVx x) → t.dt = s.dt ∧
      ((∀ x, i ≠ .ldVxDT x) → ∀ b, exec i (s.setDT b) = .next (t.setDT b))) ∧
    ((∀ x, i ≠ .ldSTVx x) → t.st = s.st ∧ ∀ b, exec i (s.setST b) = .next (t.setST b))

/-- One tick of each timer in the three modes of TIMER_UNDERFLOW, no other state touched (60_exceptions.md R150; the modes are the
spec's decision D8, log 15). -/
def Obligations.TickFollowsUnderflowMode : Prop :=
  ∀ s : State, s.halted = none →
    ∃ t, tick s = .next t ∧ OnlyChanges [.dt, .st] s t ∧
      (s.config.timerUnderflow = .saturate → t.dt.toNat = s.dt.toNat - 1 ∧ t.st.toNat = s.st.toNat - 1) ∧
      (s.config.timerUnderflow = .wrapFromZero →
        t.dt.toNat = (s.dt.toNat + 255) % 256 ∧ t.st.toNat = (s.st.toNat + 255) % 256) ∧
      (s.config.timerUnderflow = .reloadOnReachZero →
        t.dt.toNat = (if s.dt.toNat ≥ 2 then s.dt.toNat - 1 else 0xFF) ∧
        t.st.toNat = (if s.st.toNat ≥ 2 then s.st.toNat - 1 else 0xFF))

/-- Under the default mode a timer counts down to 0 and stays: after k ticks it holds its value less k, 0 from then on; so after Fx15
sets DT to 5 it is 0 after five ticks and after any more (60_exceptions.md R151). -/
def Obligations.SaturatingTimerReachesZeroAndStays : Prop :=
  ∀ (s : State) (k : Nat), s.config.timerUnderflow = .saturate →
    (s.tickTimes k).dt.toNat = s.dt.toNat - k ∧ (s.tickTimes k).st.toNat = s.st.toNat - k ∧
    (∀ x, s.getV x = 5 → ∃ t, exec (.ldDTVx x) s = .next t ∧ t.dt = 5 ∧ (5 ≤ k → (t.tickTimes k).dt = 0))

/-- "The keys are read only by Ex9E, ExA1 and Fx0A" (60_exceptions.md R146, the spec's decision D20), and rnd is "used only by Cxnn"
(10_state.md R27): no other instruction behaves differently for other inputs. -/
def Obligations.InputsReachOnlyTheirInstructions : Prop :=
  ∀ (i : Instr) (s t : State) (keys : Word) (rnd : Byte), exec i s = .next t →
    ((∀ x, i ≠ .skp x) → (∀ x, i ≠ .sknp x) → (∀ x, i ≠ .ldVxK x) →
      exec i { s with ctx := { s.ctx with keys := keys } } = .next { t with ctx := { t.ctx with keys := keys } }) ∧
    ((∀ x nn, i ≠ .rnd x nn) →
      exec i { s with ctx := { s.ctx with rnd := rnd } } = .next { t with ctx := { t.ctx with rnd := rnd } })
end

