-- ==== Sys2Proof/Laws/Decode.lean ====
section
/-! SUPPORT. The fields of a word built from fields are those fields, and a word is built from its own fields: the laws the
decoder's and the encoder's claims are assembled from. -/

namespace Sys2Proof

@[simp] theorem regOfNibble_nibbleOfReg (r : Reg) : regOfNibble (nibbleOfReg r) = r := rfl
@[simp] theorem nibbleOfReg_regOfNibble (b : Nibble) : nibbleOfReg (regOfNibble b) = b := rfl

/-! ### Bits of a built word -/

theorem getLsbD_wordNNN (op : Nibble) (nnn : Addr12) (k : Nat) :
    (wordNNN op nnn).getLsbD k = if k < 12 then nnn.getLsbD k else op.getLsbD (k - 12) :=
  BitVec.getLsbD_append (x := op) (y := nnn)

theorem getLsbD_wordXNN (op : Nibble) (x : Reg) (nn : Byte) (k : Nat) :
    (wordXNN op x nn).getLsbD k = if k < 12 then if k < 8 then nn.getLsbD k else (nibbleOfReg x).getLsbD (k - 8)
      else op.getLsbD (k - 12) := by
  rw [← BitVec.getLsbD_append (x := nibbleOfReg x) (y := nn)]
  exact BitVec.getLsbD_append (x := op) (y := nibbleOfReg x ++ nn)

theorem getLsbD_wordXYN (op : Nibble) (x y : Reg) (n : Nibble) (k : Nat) :
    (wordXYN op x y n).getLsbD k = if k < 12 then if k < 8 then if k < 4 then n.getLsbD k else (nibbleOfReg y).getLsbD (k - 4)
      else (nibbleOfReg x).getLsbD (k - 8) else op.getLsbD (k - 12) := by
  rw [← BitVec.getLsbD_append (x := nibbleOfReg y) (y := n),
    ← BitVec.getLsbD_append (x := nibbleOfReg x) (y := nibbleOfReg y ++ n)]
  exact BitVec.getLsbD_append (x := op) (y := nibbleOfReg x ++ (nibbleOfReg y ++ n))

theorem getLsbD_wordOfBytes (hi lo : Byte) (k : Nat) :
    (wordOfBytes hi lo).getLsbD k = if k < 8 then lo.getLsbD k else hi.getLsbD (k - 8) :=
  BitVec.getLsbD_append (x := hi) (y := lo)

/-! ### Fields of a built word -/

@[simp] theorem opOf_wordNNN (op : Nibble) (nnn : Addr12) : opOf (wordNNN op nnn) = op := by
  apply BitVec.eq_of_getLsbD_eq; intro k hk
  simp [opOf, getLsbD_wordNNN, hk]

@[simp] theorem nnnOf_wordNNN (op : Nibble) (nnn : Addr12) : nnnOf (wordNNN op nnn) = nnn := by
  apply BitVec.eq_of_getLsbD_eq; intro k hk
  simp [nnnOf, getLsbD_wordNNN, hk]

@[simp] theorem opOf_wordXNN (op : Nibble) (x : Reg) (nn : Byte) : opOf (wordXNN op x nn) = op := by
  apply BitVec.eq_of_getLsbD_eq; intro k hk
  simp [opOf, getLsbD_wordXNN, hk]

@[simp] theorem xOf_wordXNN (op : Nibble) (x : Reg) (nn : Byte) : xOf (wordXNN op x nn) = x := by
  have h : (wordXNN op x nn).extractLsb' 8 4 = nibbleOfReg x := by
    apply BitVec.eq_of_getLsbD_eq; intro k hk
    simp [getLsbD_wordXNN, hk, show 8 + k < 12 by omega]
  rw [xOf, h, regOfNibble_nibbleOfReg]

@[simp] theorem nnOf_wordXNN (op : Nibble) (x : Reg) (nn : Byte) : nnOf (wordXNN op x nn) = nn := by
  apply BitVec.eq_of_getLsbD_eq; intro k hk
  simp [nnOf, getLsbD_wordXNN, hk, show k < 12 by omega]

@[simp] theorem opOf_wordXYN (op : Nibble) (x y : Reg) (n : Nibble) : opOf (wordXYN op x y n) = op := by
  apply BitVec.eq_of_getLsbD_eq; intro k hk
  simp [opOf, getLsbD_wordXYN, hk]

@[simp] theorem xOf_wordXYN (op : Nibble) (x y : Reg) (n : Nibble) : xOf (wordXYN op x y n) = x := by
  have h : (wordXYN op x y n).extractLsb' 8 4 = nibbleOfReg x := by
    apply BitVec.eq_of_getLsbD_eq; intro k hk
    simp [getLsbD_wordXYN, hk, show 8 + k < 12 by omega]
  rw [xOf, h, regOfNibble_nibbleOfReg]

@[simp] theorem yOf_wordXYN (op : Nibble) (x y : Reg) (n : Nibble) : yOf (wordXYN op x y n) = y := by
  have h : (wordXYN op x y n).extractLsb' 4 4 = nibbleOfReg y := by
    apply BitVec.eq_of_getLsbD_eq; intro k hk
    simp [getLsbD_wordXYN, hk, show 4 + k < 12 by omega, show 4 + k < 8 by omega]
  rw [yOf, h, regOfNibble_nibbleOfReg]

@[simp] theorem nOf_wordXYN (op : Nibble) (x y : Reg) (n : Nibble) : nOf (wordXYN op x y n) = n := by
  apply BitVec.eq_of_getLsbD_eq; intro k hk
  simp [nOf, getLsbD_wordXYN, hk, show k < 12 by omega, show k < 8 by omega]

/-! ### A word from its own fields -/

theorem wordNNN_fields (w : Word) : wordNNN (opOf w) (nnnOf w) = w := by
  apply BitVec.eq_of_getLsbD_eq; intro k hk
  by_cases h : k < 12
  · simp [opOf, nnnOf, getLsbD_wordNNN, h]
  · simp [opOf, nnnOf, getLsbD_wordNNN, h, show k - 12 < 4 by omega, show 12 + (k - 12) = k by omega]

theorem wordXNN_fields (w : Word) : wordXNN (opOf w) (xOf w) (nnOf w) = w := by
  simp only [opOf, xOf, nnOf]
  apply BitVec.eq_of_getLsbD_eq; intro k hk
  by_cases h8 : k < 8
  · simp [getLsbD_wordXNN, h8, show k < 12 by omega]
  · by_cases h : k < 12
    · simp [getLsbD_wordXNN, h, h8, show k - 8 < 4 by omega, show 8 + (k - 8) = k by omega]
    · simp [getLsbD_wordXNN, h, show k - 12 < 4 by omega, show 12 + (k - 12) = k by omega]

theorem wordXYN_fields (w : Word) : wordXYN (opOf w) (xOf w) (yOf w) (nOf w) = w := by
  simp only [opOf, xOf, yOf, nOf]
  apply BitVec.eq_of_getLsbD_eq; intro k hk
  by_cases h4 : k < 4
  · simp [getLsbD_wordXYN, h4, show k < 8 by omega, show k < 12 by omega]
  · by_cases h8 : k < 8
    · simp [getLsbD_wordXYN, h4, h8, show k < 12 by omega, show k - 4 < 4 by omega, show 4 + (k - 4) = k by omega]
    · by_cases h : k < 12
      · simp [getLsbD_wordXYN, h, h8, show k - 8 < 4 by omega, show 8 + (k - 8) = k by omega]
      · simp [getLsbD_wordXYN, h, show k - 12 < 4 by omega, show 12 + (k - 12) = k by omega]

/-- The two bytes of a word give the word back (20_memory.md R35). -/
@[simp] theorem wordOfBytes_highByte_lowByte (w : Word) : wordOfBytes (highByte w) (lowByte w) = w := by
  apply BitVec.eq_of_getLsbD_eq; intro k hk
  by_cases h : k < 8
  · simp [getLsbD_wordOfBytes, highByte, lowByte, h]
  · simp [getLsbD_wordOfBytes, highByte, lowByte, h, show k - 8 < 8 by omega, show 8 + (k - 8) = k by omega]

/-- A word's value is its high byte times 256 plus its low byte (20_memory.md R35). -/
theorem toNat_wordOfBytes (hi lo : Byte) : (wordOfBytes hi lo).toNat = hi.toNat * 256 + lo.toNat := by
  rw [wordOfBytes, BitVec.toNat_append, Nat.shiftLeft_eq, Nat.mul_comm, ← Nat.two_pow_add_eq_or_of_lt lo.isLt]

/-- Two bytes or more decode to the instruction of their word and the rest. -/
@[simp] theorem decode_two (hi lo : Byte) (rest : List Byte) :
    decode (hi :: lo :: rest) = .ok (decodeWord (wordOfBytes hi lo), rest) := rfl

end Sys2Proof
end

