-- ==== Sys2Proof/Laws/Memory.lean ====
section
/-! SUPPORT. The laws of memory: what a read gives after a write, that every write keeps the canonical form, what a run of
bytes stores and loads, and when a range check passes. -/

namespace Sys2Proof.Machine

@[simp] theorem get_nil (a : Nat) : Memory.get [] a = initialByte a := rfl

theorem get_cons (k : Nat) (c : Byte) (m : Memory) (a : Nat) :
    Memory.get ((k, c) :: m) a = if a = k then c else Memory.get m a := rfl

/-! ### The canonical form -/

theorem wfFrom_cons {lo k : Nat} {c : Byte} {m : Memory} :
    Memory.wfFrom lo ((k, c) :: m) = true ↔
      lo ≤ k ∧ k < 4096 ∧ c ≠ initialByte k ∧ Memory.wfFrom (k + 1) m = true := by
  simp [Memory.wfFrom, and_assoc]

theorem wfFrom_mono {m : Memory} : ∀ {lo lo' : Nat}, lo ≤ lo' → Memory.wfFrom lo' m = true → Memory.wfFrom lo m = true := by
  intro lo lo' hle h
  cases m with
  | nil => rfl
  | cons c m => obtain ⟨k, b⟩ := c; rw [wfFrom_cons] at h ⊢; exact ⟨by omega, h.2⟩

/-- Below its first cell a canonical memory reads as its reset contents. -/
theorem get_of_wfFrom {m : Memory} : ∀ {lo a : Nat}, Memory.wfFrom lo m = true → a < lo → m.get a = initialByte a := by
  induction m with
  | nil => intros; rfl
  | cons c m ih =>
    obtain ⟨k, b⟩ := c
    intro lo a h ha
    rw [wfFrom_cons] at h
    rw [get_cons, if_neg (by omega)]
    exact ih h.2.2.2 (by omega)

theorem wfFrom_consCell {m : Memory} {lo a : Nat} {b : Byte} (ha : lo ≤ a) (hr : a < 4096)
    (h : Memory.wfFrom (a + 1) m = true) : Memory.wfFrom lo (consCell a b m) = true := by
  unfold consCell
  split
  · exact wfFrom_mono (by omega) h
  · exact wfFrom_cons.mpr ⟨ha, hr, ‹_›, h⟩

theorem wfFrom_set {m : Memory} : ∀ {lo a : Nat} {b : Byte}, lo ≤ a → a < 4096 → Memory.wfFrom lo m = true →
    Memory.wfFrom lo (m.set a b) = true := by
  induction m with
  | nil => intro lo a b ha hr _; exact wfFrom_consCell ha hr rfl
  | cons c m ih =>
    obtain ⟨k, c⟩ := c
    intro lo a b ha hr h
    rw [wfFrom_cons] at h
    unfold Memory.set
    split
    · exact wfFrom_consCell ha hr (wfFrom_cons.mpr ⟨by omega, h.2⟩)
    · split
      · subst a; exact wfFrom_consCell ha hr h.2.2.2
      · exact wfFrom_cons.mpr ⟨h.1, h.2.1, h.2.2.1, ih (by omega) hr h.2.2.2⟩

/-- Storing one byte below 4096 keeps the canonical form. -/
theorem wf_set {m : Memory} {a : Nat} {b : Byte} (hr : a < 4096) (h : m.wf = true) : (m.set a b).wf = true :=
  wfFrom_set (Nat.zero_le a) hr h

/-- Storing a run of bytes that ends below 4096 keeps the canonical form. -/
theorem wf_storeBytes {bs : List Byte} : ∀ {m : Memory} {base : Nat}, base + bs.length ≤ 4096 → m.wf = true →
    (storeBytes m base bs).wf = true := by
  induction bs with
  | nil => intro m base _ h; exact h
  | cons b bs ih =>
    intro m base hr h
    simp only [List.length_cons] at hr
    exact ih (by omega) (wf_set (by omega) h)

/-! ### Reads after writes -/

theorem get_consCell {m : Memory} {lo a : Nat} {b : Byte} (h : Memory.wfFrom lo m = true) (ha : a < lo) (x : Nat) :
    (consCell a b m).get x = if x = a then b else m.get x := by
  unfold consCell
  split
  · split
    · subst x; rw [get_of_wfFrom h ha]; exact Eq.symm ‹_›
    · rfl
  · rfl

theorem get_set_from {m : Memory} : ∀ {lo a : Nat} {b : Byte}, Memory.wfFrom lo m = true → ∀ x : Nat,
    (m.set a b).get x = if x = a then b else m.get x := by
  induction m with
  | nil => intro lo a b _ x; exact get_consCell (lo := a + 1) rfl (by omega) x
  | cons c m ih =>
    obtain ⟨k, c⟩ := c
    intro lo a b h x
    have hw := wfFrom_cons.mp h
    unfold Memory.set
    split
    · exact get_consCell (lo := k) (wfFrom_cons.mpr ⟨le_refl k, hw.2⟩) ‹_› x
    · split
      · subst a
        rw [get_consCell hw.2.2.2 (by omega), get_cons]
        split <;> rfl
      · rw [get_cons, get_cons, ih hw.2.2.2]
        by_cases hx : x = k
        · subst x; rw [if_pos rfl, if_neg (by omega), if_pos rfl]
        · rw [if_neg hx, if_neg hx]

/-- A read after a write of one byte. -/
theorem get_set {m : Memory} (h : m.wf = true) (a : Nat) (b : Byte) (x : Nat) :
    (m.set a b).get x = if x = a then b else m.get x := get_set_from h x

/-- A read after a run of bytes is stored: the byte of the run, or what was there. -/
theorem get_storeBytes {bs : List Byte} : ∀ {m : Memory} {base : Nat}, base + bs.length ≤ 4096 → m.wf = true → ∀ x : Nat,
    (storeBytes m base bs).get x = if base ≤ x ∧ x < base + bs.length then bs.getD (x - base) 0 else m.get x := by
  induction bs with
  | nil => intro m base _ _ x; simp [storeBytes]
  | cons b bs ih =>
    intro m base hr h x
    simp only [List.length_cons] at hr ⊢
    rw [storeBytes, ih (by omega) (wf_set (by omega) h), get_set h]
    rcases Nat.lt_trichotomy x base with hx | hx | hx
    · rw [if_neg (by omega), if_neg (by omega), if_neg (by omega)]
    · subst x; rw [if_neg (by omega), if_pos rfl, if_pos (by omega), Nat.sub_self]; rfl
    · by_cases hin : x < base + 1 + bs.length
      · rw [if_pos ⟨by omega, hin⟩, if_pos ⟨by omega, by omega⟩, show x - base = (x - (base + 1)) + 1 by omega]; rfl
      · rw [if_neg (by omega), if_neg (by omega), if_neg (by omega)]

@[simp] theorem length_loadBytes (m : Memory) : ∀ (len base : Nat), (loadBytes m base len).length = len
  | 0, _ => rfl
  | len + 1, base => by rw [loadBytes, List.length_cons, length_loadBytes m len]

/-- The k-th byte of a run is the byte at base + k. -/
theorem getD_loadBytes (m : Memory) : ∀ (len base k : Nat), k < len → (loadBytes m base len).getD k 0 = m.get (base + k)
  | 0, _, _, h => absurd h (Nat.not_lt_zero _)
  | len + 1, base, 0, _ => rfl
  | len + 1, base, k + 1, h => by
    rw [loadBytes, List.getD_cons_succ, getD_loadBytes m len (base + 1) k (by omega), show base + 1 + k = base + (k + 1) by omega]

/-! ### The range check -/

/-- The check passes exactly when there is nothing to touch or every byte is below 4096. -/
theorem rangeFault_eq_none {base len : Nat} : rangeFault base len = none ↔ len = 0 ∨ base + len ≤ 4096 := by
  unfold rangeFault; split <;> simp_all

/-- A failing check names the lowest address at or above 4096 that the access touches. -/
theorem rangeFault_eq_some {base len a : Nat} :
    rangeFault base len = some a ↔ len ≠ 0 ∧ 4096 < base + len ∧ a = max base 4096 := by
  simp only [rangeFault, Config.memSize]
  split
  · simp only [reduceCtorEq, false_iff]; omega
  · simp only [Option.some.injEq]; omega

end Sys2Proof.Machine
end

