-- ==== Sys2Proof/Laws/State.lean ====
section
/-! SUPPORT. One lemma for each field of State and each named update of it, all true by unfolding: with them no proof unfolds
a record update. -/

namespace Sys2Proof.Machine

variable (s : State)

@[simp] theorem setV_v (x : Reg) (b : Byte) : (s.setV x b).v = s.v.set x.val b x.isLt := rfl
@[simp] theorem setV_pc (x : Reg) (b : Byte) : (s.setV x b).pc = s.pc := rfl
@[simp] theorem setV_ireg (x : Reg) (b : Byte) : (s.setV x b).ireg = s.ireg := rfl
@[simp] theorem setV_stack (x : Reg) (b : Byte) : (s.setV x b).stack = s.stack := rfl
@[simp] theorem setV_sp (x : Reg) (b : Byte) : (s.setV x b).sp = s.sp := rfl
@[simp] theorem setV_dt (x : Reg) (b : Byte) : (s.setV x b).dt = s.dt := rfl
@[simp] theorem setV_st (x : Reg) (b : Byte) : (s.setV x b).st = s.st := rfl
@[simp] theorem setV_display (x : Reg) (b : Byte) : (s.setV x b).display = s.display := rfl
@[simp] theorem setV_mem (x : Reg) (b : Byte) : (s.setV x b).mem = s.mem := rfl
@[simp] theorem setV_dirty (x : Reg) (b : Byte) : (s.setV x b).dirty = s.dirty := rfl
@[simp] theorem setV_halted (x : Reg) (b : Byte) : (s.setV x b).halted = s.halted := rfl
@[simp] theorem setV_config (x : Reg) (b : Byte) : (s.setV x b).config = s.config := rfl
@[simp] theorem setV_ctx (x : Reg) (b : Byte) : (s.setV x b).ctx = s.ctx := rfl
@[simp] theorem setV_result (x : Reg) (b : Byte) : (s.setV x b).result = s.result := rfl
@[simp] theorem setV_inputs (x : Reg) (b : Byte) : (s.setV x b).inputs = s.inputs := rfl
@[simp] theorem setV_seq (x : Reg) (b : Byte) : (s.setV x b).seq = s.seq := rfl

@[simp] theorem setPc_v (a : Word) : (s.setPc a).v = s.v := rfl
@[simp] theorem setPc_pc (a : Word) : (s.setPc a).pc = a := rfl
@[simp] theorem setPc_ireg (a : Word) : (s.setPc a).ireg = s.ireg := rfl
@[simp] theorem setPc_stack (a : Word) : (s.setPc a).stack = s.stack := rfl
@[simp] theorem setPc_sp (a : Word) : (s.setPc a).sp = s.sp := rfl
@[simp] theorem setPc_dt (a : Word) : (s.setPc a).dt = s.dt := rfl
@[simp] theorem setPc_st (a : Word) : (s.setPc a).st = s.st := rfl
@[simp] theorem setPc_display (a : Word) : (s.setPc a).display = s.display := rfl
@[simp] theorem setPc_mem (a : Word) : (s.setPc a).mem = s.mem := rfl
@[simp] theorem setPc_dirty (a : Word) : (s.setPc a).dirty = s.dirty := rfl
@[simp] theorem setPc_halted (a : Word) : (s.setPc a).halted = s.halted := rfl
@[simp] theorem setPc_config (a : Word) : (s.setPc a).config = s.config := rfl
@[simp] theorem setPc_ctx (a : Word) : (s.setPc a).ctx = s.ctx := rfl
@[simp] theorem setPc_result (a : Word) : (s.setPc a).result = s.result := rfl
@[simp] theorem setPc_inputs (a : Word) : (s.setPc a).inputs = s.inputs := rfl
@[simp] theorem setPc_seq (a : Word) : (s.setPc a).seq = s.seq := rfl

@[simp] theorem setI_v (a : Word) : (s.setI a).v = s.v := rfl
@[simp] theorem setI_pc (a : Word) : (s.setI a).pc = s.pc := rfl
@[simp] theorem setI_ireg (a : Word) : (s.setI a).ireg = a := rfl
@[simp] theorem setI_stack (a : Word) : (s.setI a).stack = s.stack := rfl
@[simp] theorem setI_sp (a : Word) : (s.setI a).sp = s.sp := rfl
@[simp] theorem setI_dt (a : Word) : (s.setI a).dt = s.dt := rfl
@[simp] theorem setI_st (a : Word) : (s.setI a).st = s.st := rfl
@[simp] theorem setI_display (a : Word) : (s.setI a).display = s.display := rfl
@[simp] theorem setI_mem (a : Word) : (s.setI a).mem = s.mem := rfl
@[simp] theorem setI_dirty (a : Word) : (s.setI a).dirty = s.dirty := rfl
@[simp] theorem setI_halted (a : Word) : (s.setI a).halted = s.halted := rfl
@[simp] theorem setI_config (a : Word) : (s.setI a).config = s.config := rfl
@[simp] theorem setI_ctx (a : Word) : (s.setI a).ctx = s.ctx := rfl
@[simp] theorem setI_result (a : Word) : (s.setI a).result = s.result := rfl
@[simp] theorem setI_inputs (a : Word) : (s.setI a).inputs = s.inputs := rfl
@[simp] theorem setI_seq (a : Word) : (s.setI a).seq = s.seq := rfl

@[simp] theorem setDT_v (b : Byte) : (s.setDT b).v = s.v := rfl
@[simp] theorem setDT_pc (b : Byte) : (s.setDT b).pc = s.pc := rfl
@[simp] theorem setDT_ireg (b : Byte) : (s.setDT b).ireg = s.ireg := rfl
@[simp] theorem setDT_stack (b : Byte) : (s.setDT b).stack = s.stack := rfl
@[simp] theorem setDT_sp (b : Byte) : (s.setDT b).sp = s.sp := rfl
@[simp] theorem setDT_dt (b : Byte) : (s.setDT b).dt = b := rfl
@[simp] theorem setDT_st (b : Byte) : (s.setDT b).st = s.st := rfl
@[simp] theorem setDT_display (b : Byte) : (s.setDT b).display = s.display := rfl
@[simp] theorem setDT_mem (b : Byte) : (s.setDT b).mem = s.mem := rfl
@[simp] theorem setDT_dirty (b : Byte) : (s.setDT b).dirty = s.dirty := rfl
@[simp] theorem setDT_halted (b : Byte) : (s.setDT b).halted = s.halted := rfl
@[simp] theorem setDT_config (b : Byte) : (s.setDT b).config = s.config := rfl
@[simp] theorem setDT_ctx (b : Byte) : (s.setDT b).ctx = s.ctx := rfl
@[simp] theorem setDT_result (b : Byte) : (s.setDT b).result = s.result := rfl
@[simp] theorem setDT_inputs (b : Byte) : (s.setDT b).inputs = s.inputs := rfl
@[simp] theorem setDT_seq (b : Byte) : (s.setDT b).seq = s.seq := rfl

@[simp] theorem setST_v (b : Byte) : (s.setST b).v = s.v := rfl
@[simp] theorem setST_pc (b : Byte) : (s.setST b).pc = s.pc := rfl
@[simp] theorem setST_ireg (b : Byte) : (s.setST b).ireg = s.ireg := rfl
@[simp] theorem setST_stack (b : Byte) : (s.setST b).stack = s.stack := rfl
@[simp] theorem setST_sp (b : Byte) : (s.setST b).sp = s.sp := rfl
@[simp] theorem setST_dt (b : Byte) : (s.setST b).dt = s.dt := rfl
@[simp] theorem setST_st (b : Byte) : (s.setST b).st = b := rfl
@[simp] theorem setST_display (b : Byte) : (s.setST b).display = s.display := rfl
@[simp] theorem setST_mem (b : Byte) : (s.setST b).mem = s.mem := rfl
@[simp] theorem setST_dirty (b : Byte) : (s.setST b).dirty = s.dirty := rfl
@[simp] theorem setST_halted (b : Byte) : (s.setST b).halted = s.halted := rfl
@[simp] theorem setST_config (b : Byte) : (s.setST b).config = s.config := rfl
@[simp] theorem setST_ctx (b : Byte) : (s.setST b).ctx = s.ctx := rfl
@[simp] theorem setST_result (b : Byte) : (s.setST b).result = s.result := rfl
@[simp] theorem setST_inputs (b : Byte) : (s.setST b).inputs = s.inputs := rfl
@[simp] theorem setST_seq (b : Byte) : (s.setST b).seq = s.seq := rfl

@[simp] theorem setMem_v (m : Memory) : (s.setMem m).v = s.v := rfl
@[simp] theorem setMem_pc (m : Memory) : (s.setMem m).pc = s.pc := rfl
@[simp] theorem setMem_ireg (m : Memory) : (s.setMem m).ireg = s.ireg := rfl
@[simp] theorem setMem_stack (m : Memory) : (s.setMem m).stack = s.stack := rfl
@[simp] theorem setMem_sp (m : Memory) : (s.setMem m).sp = s.sp := rfl
@[simp] theorem setMem_dt (m : Memory) : (s.setMem m).dt = s.dt := rfl
@[simp] theorem setMem_st (m : Memory) : (s.setMem m).st = s.st := rfl
@[simp] theorem setMem_display (m : Memory) : (s.setMem m).display = s.display := rfl
@[simp] theorem setMem_mem (m : Memory) : (s.setMem m).mem = m := rfl
@[simp] theorem setMem_dirty (m : Memory) : (s.setMem m).dirty = s.dirty := rfl
@[simp] theorem setMem_halted (m : Memory) : (s.setMem m).halted = s.halted := rfl
@[simp] theorem setMem_config (m : Memory) : (s.setMem m).config = s.config := rfl
@[simp] theorem setMem_ctx (m : Memory) : (s.setMem m).ctx = s.ctx := rfl
@[simp] theorem setMem_result (m : Memory) : (s.setMem m).result = s.result := rfl
@[simp] theorem setMem_inputs (m : Memory) : (s.setMem m).inputs = s.inputs := rfl
@[simp] theorem setMem_seq (m : Memory) : (s.setMem m).seq = s.seq := rfl

@[simp] theorem setDisplay_v (d : Vector Row 32) : (s.setDisplay d).v = s.v := rfl
@[simp] theorem setDisplay_pc (d : Vector Row 32) : (s.setDisplay d).pc = s.pc := rfl
@[simp] theorem setDisplay_ireg (d : Vector Row 32) : (s.setDisplay d).ireg = s.ireg := rfl
@[simp] theorem setDisplay_stack (d : Vector Row 32) : (s.setDisplay d).stack = s.stack := rfl
@[simp] theorem setDisplay_sp (d : Vector Row 32) : (s.setDisplay d).sp = s.sp := rfl
@[simp] theorem setDisplay_dt (d : Vector Row 32) : (s.setDisplay d).dt = s.dt := rfl
@[simp] theorem setDisplay_st (d : Vector Row 32) : (s.setDisplay d).st = s.st := rfl
@[simp] theorem setDisplay_display (d : Vector Row 32) : (s.setDisplay d).display = d := rfl
@[simp] theorem setDisplay_mem (d : Vector Row 32) : (s.setDisplay d).mem = s.mem := rfl
@[simp] theorem setDisplay_dirty (d : Vector Row 32) : (s.setDisplay d).dirty = s.dirty := rfl
@[simp] theorem setDisplay_halted (d : Vector Row 32) : (s.setDisplay d).halted = s.halted := rfl
@[simp] theorem setDisplay_config (d : Vector Row 32) : (s.setDisplay d).config = s.config := rfl
@[simp] theorem setDisplay_ctx (d : Vector Row 32) : (s.setDisplay d).ctx = s.ctx := rfl
@[simp] theorem setDisplay_result (d : Vector Row 32) : (s.setDisplay d).result = s.result := rfl
@[simp] theorem setDisplay_inputs (d : Vector Row 32) : (s.setDisplay d).inputs = s.inputs := rfl
@[simp] theorem setDisplay_seq (d : Vector Row 32) : (s.setDisplay d).seq = s.seq := rfl

@[simp] theorem setDirty_v (b : Bool) : (s.setDirty b).v = s.v := rfl
@[simp] theorem setDirty_pc (b : Bool) : (s.setDirty b).pc = s.pc := rfl
@[simp] theorem setDirty_ireg (b : Bool) : (s.setDirty b).ireg = s.ireg := rfl
@[simp] theorem setDirty_stack (b : Bool) : (s.setDirty b).stack = s.stack := rfl
@[simp] theorem setDirty_sp (b : Bool) : (s.setDirty b).sp = s.sp := rfl
@[simp] theorem setDirty_dt (b : Bool) : (s.setDirty b).dt = s.dt := rfl
@[simp] theorem setDirty_st (b : Bool) : (s.setDirty b).st = s.st := rfl
@[simp] theorem setDirty_display (b : Bool) : (s.setDirty b).display = s.display := rfl
@[simp] theorem setDirty_mem (b : Bool) : (s.setDirty b).mem = s.mem := rfl
@[simp] theorem setDirty_dirty (b : Bool) : (s.setDirty b).dirty = b := rfl
@[simp] theorem setDirty_halted (b : Bool) : (s.setDirty b).halted = s.halted := rfl
@[simp] theorem setDirty_config (b : Bool) : (s.setDirty b).config = s.config := rfl
@[simp] theorem setDirty_ctx (b : Bool) : (s.setDirty b).ctx = s.ctx := rfl
@[simp] theorem setDirty_result (b : Bool) : (s.setDirty b).result = s.result := rfl
@[simp] theorem setDirty_inputs (b : Bool) : (s.setDirty b).inputs = s.inputs := rfl
@[simp] theorem setDirty_seq (b : Bool) : (s.setDirty b).seq = s.seq := rfl

@[simp] theorem setResult_v (r : StepResult) : (s.setResult r).v = s.v := rfl
@[simp] theorem setResult_pc (r : StepResult) : (s.setResult r).pc = s.pc := rfl
@[simp] theorem setResult_ireg (r : StepResult) : (s.setResult r).ireg = s.ireg := rfl
@[simp] theorem setResult_stack (r : StepResult) : (s.setResult r).stack = s.stack := rfl
@[simp] theorem setResult_sp (r : StepResult) : (s.setResult r).sp = s.sp := rfl
@[simp] theorem setResult_dt (r : StepResult) : (s.setResult r).dt = s.dt := rfl
@[simp] theorem setResult_st (r : StepResult) : (s.setResult r).st = s.st := rfl
@[simp] theorem setResult_display (r : StepResult) : (s.setResult r).display = s.display := rfl
@[simp] theorem setResult_mem (r : StepResult) : (s.setResult r).mem = s.mem := rfl
@[simp] theorem setResult_dirty (r : StepResult) : (s.setResult r).dirty = s.dirty := rfl
@[simp] theorem setResult_halted (r : StepResult) : (s.setResult r).halted = s.halted := rfl
@[simp] theorem setResult_config (r : StepResult) : (s.setResult r).config = s.config := rfl
@[simp] theorem setResult_ctx (r : StepResult) : (s.setResult r).ctx = s.ctx := rfl
@[simp] theorem setResult_result (r : StepResult) : (s.setResult r).result = some r := rfl
@[simp] theorem setResult_inputs (r : StepResult) : (s.setResult r).inputs = s.inputs := rfl
@[simp] theorem setResult_seq (r : StepResult) : (s.setResult r).seq = s.seq := rfl

@[simp] theorem store_v (base : Nat) (bs : List Byte) : (s.store base bs).v = s.v := rfl
@[simp] theorem store_pc (base : Nat) (bs : List Byte) : (s.store base bs).pc = s.pc := rfl
@[simp] theorem store_ireg (base : Nat) (bs : List Byte) : (s.store base bs).ireg = s.ireg := rfl
@[simp] theorem store_stack (base : Nat) (bs : List Byte) : (s.store base bs).stack = s.stack := rfl
@[simp] theorem store_sp (base : Nat) (bs : List Byte) : (s.store base bs).sp = s.sp := rfl
@[simp] theorem store_dt (base : Nat) (bs : List Byte) : (s.store base bs).dt = s.dt := rfl
@[simp] theorem store_st (base : Nat) (bs : List Byte) : (s.store base bs).st = s.st := rfl
@[simp] theorem store_display (base : Nat) (bs : List Byte) : (s.store base bs).display = s.display := rfl
@[simp] theorem store_mem (base : Nat) (bs : List Byte) : (s.store base bs).mem = storeBytes s.mem base bs := rfl
@[simp] theorem store_dirty (base : Nat) (bs : List Byte) : (s.store base bs).dirty = s.dirty := rfl
@[simp] theorem store_halted (base : Nat) (bs : List Byte) : (s.store base bs).halted = s.halted := rfl
@[simp] theorem store_config (base : Nat) (bs : List Byte) : (s.store base bs).config = s.config := rfl
@[simp] theorem store_ctx (base : Nat) (bs : List Byte) : (s.store base bs).ctx = s.ctx := rfl
@[simp] theorem store_result (base : Nat) (bs : List Byte) : (s.store base bs).result = s.result := rfl
@[simp] theorem store_inputs (base : Nat) (bs : List Byte) : (s.store base bs).inputs = s.inputs := rfl
@[simp] theorem store_seq (base : Nat) (bs : List Byte) : (s.store base bs).seq = s.seq := rfl

@[simp] theorem loadV_v (bs : List Byte) : (s.loadV bs).v = putRegs s.v 0 bs := rfl
@[simp] theorem loadV_pc (bs : List Byte) : (s.loadV bs).pc = s.pc := rfl
@[simp] theorem loadV_ireg (bs : List Byte) : (s.loadV bs).ireg = s.ireg := rfl
@[simp] theorem loadV_stack (bs : List Byte) : (s.loadV bs).stack = s.stack := rfl
@[simp] theorem loadV_sp (bs : List Byte) : (s.loadV bs).sp = s.sp := rfl
@[simp] theorem loadV_dt (bs : List Byte) : (s.loadV bs).dt = s.dt := rfl
@[simp] theorem loadV_st (bs : List Byte) : (s.loadV bs).st = s.st := rfl
@[simp] theorem loadV_display (bs : List Byte) : (s.loadV bs).display = s.display := rfl
@[simp] theorem loadV_mem (bs : List Byte) : (s.loadV bs).mem = s.mem := rfl
@[simp] theorem loadV_dirty (bs : List Byte) : (s.loadV bs).dirty = s.dirty := rfl
@[simp] theorem loadV_halted (bs : List Byte) : (s.loadV bs).halted = s.halted := rfl
@[simp] theorem loadV_config (bs : List Byte) : (s.loadV bs).config = s.config := rfl
@[simp] theorem loadV_ctx (bs : List Byte) : (s.loadV bs).ctx = s.ctx := rfl
@[simp] theorem loadV_result (bs : List Byte) : (s.loadV bs).result = s.result := rfl
@[simp] theorem loadV_inputs (bs : List Byte) : (s.loadV bs).inputs = s.inputs := rfl
@[simp] theorem loadV_seq (bs : List Byte) : (s.loadV bs).seq = s.seq := rfl

@[simp] theorem push_v (a : Word) : (s.push a).v = s.v := rfl
@[simp] theorem push_pc (a : Word) : (s.push a).pc = s.pc := rfl
@[simp] theorem push_ireg (a : Word) : (s.push a).ireg = s.ireg := rfl
@[simp] theorem push_stack (a : Word) : (s.push a).stack = s.stack.setIfInBounds s.sp a := rfl
@[simp] theorem push_sp (a : Word) : (s.push a).sp = s.sp + 1 := rfl
@[simp] theorem push_dt (a : Word) : (s.push a).dt = s.dt := rfl
@[simp] theorem push_st (a : Word) : (s.push a).st = s.st := rfl
@[simp] theorem push_display (a : Word) : (s.push a).display = s.display := rfl
@[simp] theorem push_mem (a : Word) : (s.push a).mem = s.mem := rfl
@[simp] theorem push_dirty (a : Word) : (s.push a).dirty = s.dirty := rfl
@[simp] theorem push_halted (a : Word) : (s.push a).halted = s.halted := rfl
@[simp] theorem push_config (a : Word) : (s.push a).config = s.config := rfl
@[simp] theorem push_ctx (a : Word) : (s.push a).ctx = s.ctx := rfl
@[simp] theorem push_result (a : Word) : (s.push a).result = s.result := rfl
@[simp] theorem push_inputs (a : Word) : (s.push a).inputs = s.inputs := rfl
@[simp] theorem push_seq (a : Word) : (s.push a).seq = s.seq := rfl

@[simp] theorem pop_v : (s.pop).v = s.v := rfl
@[simp] theorem pop_pc : (s.pop).pc = s.pc := rfl
@[simp] theorem pop_ireg : (s.pop).ireg = s.ireg := rfl
@[simp] theorem pop_stack : (s.pop).stack = s.stack := rfl
@[simp] theorem pop_sp : (s.pop).sp = s.sp - 1 := rfl
@[simp] theorem pop_dt : (s.pop).dt = s.dt := rfl
@[simp] theorem pop_st : (s.pop).st = s.st := rfl
@[simp] theorem pop_display : (s.pop).display = s.display := rfl
@[simp] theorem pop_mem : (s.pop).mem = s.mem := rfl
@[simp] theorem pop_dirty : (s.pop).dirty = s.dirty := rfl
@[simp] theorem pop_halted : (s.pop).halted = s.halted := rfl
@[simp] theorem pop_config : (s.pop).config = s.config := rfl
@[simp] theorem pop_ctx : (s.pop).ctx = s.ctx := rfl
@[simp] theorem pop_result : (s.pop).result = s.result := rfl
@[simp] theorem pop_inputs : (s.pop).inputs = s.inputs := rfl
@[simp] theorem pop_seq : (s.pop).seq = s.seq := rfl

@[simp] theorem raiseFatal_v (k : FatalKind) (n : Nat) : (s.raiseFatal k n).v = s.v := rfl
@[simp] theorem raiseFatal_pc (k : FatalKind) (n : Nat) : (s.raiseFatal k n).pc = s.pc := rfl
@[simp] theorem raiseFatal_ireg (k : FatalKind) (n : Nat) : (s.raiseFatal k n).ireg = s.ireg := rfl
@[simp] theorem raiseFatal_stack (k : FatalKind) (n : Nat) : (s.raiseFatal k n).stack = s.stack := rfl
@[simp] theorem raiseFatal_sp (k : FatalKind) (n : Nat) : (s.raiseFatal k n).sp = s.sp := rfl
@[simp] theorem raiseFatal_dt (k : FatalKind) (n : Nat) : (s.raiseFatal k n).dt = s.dt := rfl
@[simp] theorem raiseFatal_st (k : FatalKind) (n : Nat) : (s.raiseFatal k n).st = s.st := rfl
@[simp] theorem raiseFatal_display (k : FatalKind) (n : Nat) : (s.raiseFatal k n).display = s.display := rfl
@[simp] theorem raiseFatal_mem (k : FatalKind) (n : Nat) : (s.raiseFatal k n).mem = s.mem := rfl
@[simp] theorem raiseFatal_dirty (k : FatalKind) (n : Nat) : (s.raiseFatal k n).dirty = s.dirty := rfl
@[simp] theorem raiseFatal_halted (k : FatalKind) (n : Nat) : (s.raiseFatal k n).halted = some (s.fatalRecord k n) := rfl
@[simp] theorem raiseFatal_config (k : FatalKind) (n : Nat) : (s.raiseFatal k n).config = s.config := rfl
@[simp] theorem raiseFatal_ctx (k : FatalKind) (n : Nat) : (s.raiseFatal k n).ctx = s.ctx := rfl
@[simp] theorem raiseFatal_result (k : FatalKind) (n : Nat) : (s.raiseFatal k n).result = some (.fatal (s.fatalRecord k n)) := rfl
@[simp] theorem raiseFatal_inputs (k : FatalKind) (n : Nat) : (s.raiseFatal k n).inputs = s.inputs := rfl
@[simp] theorem raiseFatal_seq (k : FatalKind) (n : Nat) : (s.raiseFatal k n).seq = s.seq := rfl

@[simp] theorem beginStep_v (keys : Word) (rnd : Byte) : (s.beginStep keys rnd).v = s.v := rfl
@[simp] theorem beginStep_pc (keys : Word) (rnd : Byte) : (s.beginStep keys rnd).pc = s.pc := rfl
@[simp] theorem beginStep_ireg (keys : Word) (rnd : Byte) : (s.beginStep keys rnd).ireg = s.ireg := rfl
@[simp] theorem beginStep_stack (keys : Word) (rnd : Byte) : (s.beginStep keys rnd).stack = s.stack := rfl
@[simp] theorem beginStep_sp (keys : Word) (rnd : Byte) : (s.beginStep keys rnd).sp = s.sp := rfl
@[simp] theorem beginStep_dt (keys : Word) (rnd : Byte) : (s.beginStep keys rnd).dt = s.dt := rfl
@[simp] theorem beginStep_st (keys : Word) (rnd : Byte) : (s.beginStep keys rnd).st = s.st := rfl
@[simp] theorem beginStep_display (keys : Word) (rnd : Byte) : (s.beginStep keys rnd).display = s.display := rfl
@[simp] theorem beginStep_mem (keys : Word) (rnd : Byte) : (s.beginStep keys rnd).mem = s.mem := rfl
@[simp] theorem beginStep_dirty (keys : Word) (rnd : Byte) : (s.beginStep keys rnd).dirty = s.dirty := rfl
@[simp] theorem beginStep_halted (keys : Word) (rnd : Byte) : (s.beginStep keys rnd).halted = s.halted := rfl
@[simp] theorem beginStep_config (keys : Word) (rnd : Byte) : (s.beginStep keys rnd).config = s.config := rfl
@[simp] theorem beginStep_ctx (keys : Word) (rnd : Byte) : (s.beginStep keys rnd).ctx = { addr := s.pc, word := none, keys := keys, rnd := rnd } := rfl
@[simp] theorem beginStep_result (keys : Word) (rnd : Byte) : (s.beginStep keys rnd).result = some .completed := rfl
@[simp] theorem beginStep_inputs (keys : Word) (rnd : Byte) : (s.beginStep keys rnd).inputs = s.inputs := rfl
@[simp] theorem beginStep_seq (keys : Word) (rnd : Byte) : (s.beginStep keys rnd).seq = s.seq := rfl

@[simp] theorem latchWord_v (w : Word) : (s.latchWord w).v = s.v := rfl
@[simp] theorem latchWord_pc (w : Word) : (s.latchWord w).pc = s.pc + 2 := rfl
@[simp] theorem latchWord_ireg (w : Word) : (s.latchWord w).ireg = s.ireg := rfl
@[simp] theorem latchWord_stack (w : Word) : (s.latchWord w).stack = s.stack := rfl
@[simp] theorem latchWord_sp (w : Word) : (s.latchWord w).sp = s.sp := rfl
@[simp] theorem latchWord_dt (w : Word) : (s.latchWord w).dt = s.dt := rfl
@[simp] theorem latchWord_st (w : Word) : (s.latchWord w).st = s.st := rfl
@[simp] theorem latchWord_display (w : Word) : (s.latchWord w).display = s.display := rfl
@[simp] theorem latchWord_mem (w : Word) : (s.latchWord w).mem = s.mem := rfl
@[simp] theorem latchWord_dirty (w : Word) : (s.latchWord w).dirty = s.dirty := rfl
@[simp] theorem latchWord_halted (w : Word) : (s.latchWord w).halted = s.halted := rfl
@[simp] theorem latchWord_config (w : Word) : (s.latchWord w).config = s.config := rfl
@[simp] theorem latchWord_ctx (w : Word) : (s.latchWord w).ctx = { s.ctx with word := some w } := rfl
@[simp] theorem latchWord_result (w : Word) : (s.latchWord w).result = s.result := rfl
@[simp] theorem latchWord_inputs (w : Word) : (s.latchWord w).inputs = s.inputs := rfl
@[simp] theorem latchWord_seq (w : Word) : (s.latchWord w).seq = s.seq := rfl

@[simp] theorem consumeInput_v : (s.consumeInput).v = s.v := rfl
@[simp] theorem consumeInput_pc : (s.consumeInput).pc = s.pc := rfl
@[simp] theorem consumeInput_ireg : (s.consumeInput).ireg = s.ireg := rfl
@[simp] theorem consumeInput_stack : (s.consumeInput).stack = s.stack := rfl
@[simp] theorem consumeInput_sp : (s.consumeInput).sp = s.sp := rfl
@[simp] theorem consumeInput_dt : (s.consumeInput).dt = s.dt := rfl
@[simp] theorem consumeInput_st : (s.consumeInput).st = s.st := rfl
@[simp] theorem consumeInput_display : (s.consumeInput).display = s.display := rfl
@[simp] theorem consumeInput_mem : (s.consumeInput).mem = s.mem := rfl
@[simp] theorem consumeInput_dirty : (s.consumeInput).dirty = s.dirty := rfl
@[simp] theorem consumeInput_halted : (s.consumeInput).halted = s.halted := rfl
@[simp] theorem consumeInput_config : (s.consumeInput).config = s.config := rfl
@[simp] theorem consumeInput_ctx : (s.consumeInput).ctx = s.ctx := rfl
@[simp] theorem consumeInput_result : (s.consumeInput).result = s.result := rfl
@[simp] theorem consumeInput_inputs : (s.consumeInput).inputs = s.inputs.tail := rfl
@[simp] theorem consumeInput_seq : (s.consumeInput).seq = s.seq + 1 := rfl

@[simp] theorem tickTimes_v (k : Nat) : (s.tickTimes k).v = s.v := rfl
@[simp] theorem tickTimes_pc (k : Nat) : (s.tickTimes k).pc = s.pc := rfl
@[simp] theorem tickTimes_ireg (k : Nat) : (s.tickTimes k).ireg = s.ireg := rfl
@[simp] theorem tickTimes_stack (k : Nat) : (s.tickTimes k).stack = s.stack := rfl
@[simp] theorem tickTimes_sp (k : Nat) : (s.tickTimes k).sp = s.sp := rfl
@[simp] theorem tickTimes_dt (k : Nat) : (s.tickTimes k).dt = tickTimerTimes s.config.timerUnderflow s.dt k := rfl
@[simp] theorem tickTimes_st (k : Nat) : (s.tickTimes k).st = tickTimerTimes s.config.timerUnderflow s.st k := rfl
@[simp] theorem tickTimes_display (k : Nat) : (s.tickTimes k).display = s.display := rfl
@[simp] theorem tickTimes_mem (k : Nat) : (s.tickTimes k).mem = s.mem := rfl
@[simp] theorem tickTimes_dirty (k : Nat) : (s.tickTimes k).dirty = s.dirty := rfl
@[simp] theorem tickTimes_halted (k : Nat) : (s.tickTimes k).halted = s.halted := rfl
@[simp] theorem tickTimes_config (k : Nat) : (s.tickTimes k).config = s.config := rfl
@[simp] theorem tickTimes_ctx (k : Nat) : (s.tickTimes k).ctx = s.ctx := rfl
@[simp] theorem tickTimes_result (k : Nat) : (s.tickTimes k).result = s.result := rfl
@[simp] theorem tickTimes_inputs (k : Nat) : (s.tickTimes k).inputs = s.inputs := rfl
@[simp] theorem tickTimes_seq (k : Nat) : (s.tickTimes k).seq = s.seq := rfl

end Sys2Proof.Machine
end

