-- ==== Sys2Proof/Laws/Ops.lean ====
section
/-! SUPPORT. What each shared operation over registers, the stack, pc and fatal conditions can do, said once. -/

namespace Sys2Proof.Machine

variable (s : State)

/-! ### Registers -/

theorem getV_setV (x r : Reg) (b : Byte) : (s.setV x b).getV r = if r = x then b else s.getV r := by
  unfold State.getV State.setV
  simp only [Vector.get_eq_getElem, Vector.getElem_set]
  by_cases h : r = x
  · simp [h]
  · rw [if_neg h, if_neg (fun e => h (Fin.ext e.symm))]

@[simp] theorem getV_setV_same (x : Reg) (b : Byte) : (s.setV x b).getV x = b := by rw [getV_setV, if_pos rfl]

theorem getV_setV_other {x r : Reg} (b : Byte) (h : r ≠ x) : (s.setV x b).getV r = s.getV r := by rw [getV_setV, if_neg h]

/-- A register reads the same in two states with the same register file. -/
theorem getV_of_v {s t : State} (h : t.v = s.v) (r : Reg) : t.getV r = s.getV r := by unfold State.getV; rw [h]

theorem byteAt_of_mem {s t : State} (h : t.mem = s.mem) (a : Nat) : t.byteAt a = s.byteAt a := by unfold State.byteAt; rw [h]

theorem getV_flagThenResult (f : Byte) (x r : Reg) (b : Byte) :
    (s.flagThenResult f x b).getV r = if r = x then b else if r = VF then f else s.getV r := by
  unfold State.flagThenResult; rw [getV_setV, getV_setV]

theorem get_putRegs : ∀ (bs : List Byte) (v : Vector Byte 16) (k : Nat) (r : Reg),
    (putRegs v k bs).get r = if k ≤ r.val ∧ r.val < k + bs.length then bs.getD (r.val - k) 0 else v.get r
  | [], v, k, r => by simp [putRegs]
  | b :: bs, v, k, r => by
    rw [putRegs, get_putRegs bs, List.length_cons]
    simp only [Vector.get_eq_getElem, Vector.getElem_setIfInBounds]
    rcases Nat.lt_trichotomy r.val k with hx | hx | hx
    · rw [if_neg (by omega), if_neg (by omega), if_neg (by omega)]
    · rw [if_neg (by omega), if_pos hx.symm, if_pos (by omega), show r.val - k = 0 by omega]; rfl
    · by_cases hin : r.val < k + 1 + bs.length
      · rw [if_pos ⟨by omega, hin⟩, if_pos ⟨by omega, by omega⟩, show r.val - k = (r.val - (k + 1)) + 1 by omega]; rfl
      · rw [if_neg (by omega), if_neg (by omega), if_neg (by omega)]

/-- The registers after a run of bytes is loaded into V0, V1, … -/
theorem getV_loadV (bs : List Byte) (r : Reg) :
    (s.loadV bs).getV r = if r.val < bs.length then bs.getD r.val 0 else s.getV r := by
  unfold State.loadV State.getV
  rw [get_putRegs]
  simp

theorem length_regsUpTo (x : Reg) : (s.regsUpTo x).length = x.val + 1 := by
  simp [State.regsUpTo]

/-- The k-th byte of V0..Vx is Vk. -/
theorem getD_regsUpTo (x k : Reg) (h : k ≤ x) : (s.regsUpTo x).getD k.val 0 = s.getV k := by
  have hk : k.val < x.val + 1 := Nat.lt_succ_of_le h
  simp [State.regsUpTo, State.getV, List.getD, hk, Vector.get_eq_getElem]

/-! ### The program counter and the return stack -/

theorem skipIf_pc (c : Bool) : (s.skipIf c).pc = if c then s.pc + 2 else s.pc := by cases c <;> rfl

/-- A skip changes pc alone. -/
theorem skipIf_eq_setPc (c : Bool) : s.skipIf c = s.setPc (s.skipIf c).pc := by cases c <;> rfl

theorem getS_push (a : Word) (h : s.sp < 16) (k : Nat) : (s.push a).getS k = if k = s.sp then a else s.getS k := by
  unfold State.getS
  rw [push_stack, Vector.toList_setIfInBounds]
  simp only [List.getD, List.getElem?_set]
  by_cases hk : k = s.sp
  · subst k; simp [h]
  · rw [if_neg (Ne.symm hk), if_neg hk]

/-! ### Fatal conditions -/

@[simp] theorem fatalRecord_kind (k : FatalKind) (n : Nat) : (s.fatalRecord k n).kind = k := rfl
@[simp] theorem fatalRecord_info (k : FatalKind) (n : Nat) : (s.fatalRecord k n).info = n := rfl
@[simp] theorem fatalRecord_addr (k : FatalKind) (n : Nat) : (s.fatalRecord k n).addr = s.ctx.addr := rfl
@[simp] theorem fatalRecord_word (k : FatalKind) (n : Nat) : (s.fatalRecord k n).word = s.ctx.word := rfl

/-- What a guarded effect can do: all of it in range, or the fatal condition with the lowest bad address. -/
theorem guardRange_cases (base len : Nat) (done : State) :
    ((len = 0 ∨ base + len ≤ 4096) ∧ s.guardRange base len done = done) ∨
    (len ≠ 0 ∧ 4096 < base + len ∧
      s.guardRange base len done = s.raiseFatal .memoryOutOfRange (max base 4096)) := by
  unfold State.guardRange
  cases h : rangeFault base len with
  | none => exact .inl ⟨rangeFault_eq_none.mp h, rfl⟩
  | some a => obtain ⟨h0, h1, rfl⟩ := rangeFault_eq_some.mp h; exact .inr ⟨h0, h1, rfl⟩

theorem guardRange_ok {base len : Nat} (done : State) (h : len = 0 ∨ base + len ≤ 4096) :
    s.guardRange base len done = done := by
  unfold State.guardRange; rw [rangeFault_eq_none.mpr h]

theorem guardRange_fatal {base len : Nat} (done : State) (h0 : len ≠ 0) (h : 4096 < base + len) :
    s.guardRange base len done = s.raiseFatal .memoryOutOfRange (max base 4096) := by
  unfold State.guardRange; rw [rangeFault_eq_some.mpr ⟨h0, h, rfl⟩]

/-! ### Operands -/

@[simp] theorem toNat_addrOfImm (nnn : Addr12) : (addrOfImm nnn).toNat = nnn.toNat := by
  simp [addrOfImm, BitVec.toNat_setWidth]; omega

@[simp] theorem toNat_wordOfByte (b : Byte) : (wordOfByte b).toNat = b.toNat := by
  simp [wordOfByte, BitVec.toNat_setWidth]; omega

/-- The key found is down, and no lower key is; none is found exactly when no key is down. -/
theorem anyDown_eq_some {keys : Word} {k : Nat} :
    anyDown keys = some k ↔ k < 16 ∧ isDown keys k = true ∧ ∀ j, j < k → isDown keys j = false := by
  simp only [anyDown, List.find?_range_eq_some, Bool.not_eq_true']
  constructor
  · rintro ⟨h1, h2, h3⟩; exact ⟨by simpa using h2, h1, h3⟩
  · rintro ⟨h1, h2, h3⟩; exact ⟨h2, by simpa using h1, h3⟩

end Sys2Proof.Machine
end

