-- ==== Sys2Proof/Laws/Display.lean ====
section
/-! SUPPORT. The compositor pixel by pixel: what toggling one pixel does to every pixel, and the invariant of the drawing
loops, from which a whole draw is read off. -/

namespace Sys2Proof.Machine

/-- Two displays with the same pixels are the same display. -/
theorem display_ext {d e : Vector Row 32}
    (h : ∀ row col, row < 32 → col < 64 → pixelOf d row col = pixelOf e row col) : d = e := by
  apply Vector.ext
  intro row hr
  apply BitVec.eq_of_getLsbD_eq
  intro col hc
  have := h row col hr hc
  simpa [pixelOf, Nat.mod_eq_of_lt hr, Nat.mod_eq_of_lt hc] using this

/-- Toggling a pixel flips that pixel, the coordinates wrapping, and no other. -/
theorem pixelOf_togglePixel (d : Vector Row 32) (row col r c : Nat) :
    pixelOf (togglePixel d row col) r c =
      (pixelOf d r c ^^ decide (r % 32 = row % 32 ∧ c % 64 = col % 64)) := by
  have h64 : c % 64 < 64 := Nat.mod_lt _ (by decide)
  simp only [pixelOf, togglePixel, Vector.getElem_set]
  by_cases hr : row % 32 = r % 32
  · simp only [hr, if_true, BitVec.getLsbD_xor, BitVec.getLsbD_shiftLeft, h64, decide_true, Bool.true_and, true_and]
    congr 1
    by_cases hc : c % 64 = col % 64
    · simp [hc]
    · rw [decide_eq_false hc]
      by_cases hlt : c % 64 < col % 64
      · simp [hlt]
      · have : c % 64 - col % 64 ≠ 0 := by omega
        simp [BitVec.getLsbD_one, this]
  · rw [if_neg hr, decide_eq_false (by omega)]; simp

/-- Compositing one sprite bit: the target pixel is flipped where the bit is 1. -/
theorem pixelOf_plot (k : Canvas) (row col : Nat) (on : Bool) (r c : Nat) :
    pixelOf (plot k row col on).rows r c =
      (pixelOf k.rows r c ^^ (on && decide (r % 32 = row % 32 ∧ c % 64 = col % 64))) := by
  cases on with
  | false => simp [plot]
  | true => simp only [plot, if_true, pixelOf_togglePixel, Bool.true_and]

/-- Compositing one sprite bit: a collision is a 1 bit on a lit pixel. -/
theorem coll_plot (k : Canvas) (row col : Nat) (on : Bool) :
    (plot k row col on).coll = (k.coll || (on && pixelOf k.rows row col)) := by
  cases on with
  | false => simp [plot]
  | true => simp [plot]

/-- The bits c, …, c + len - 1 of a byte composited onto one row: their columns are distinct (44_display.md R125), so each
pixel is flipped at most once. -/
theorem pixelOf_drawBits (b : Byte) (row cx r q : Nat) : ∀ (len c : Nat) (k : Canvas), len ≤ 64 →
    pixelOf (drawBits k b row cx c len).rows r q = (pixelOf k.rows r q ^^
      decide (r % 32 = row % 32 ∧ ∃ j, j < len ∧ spriteBit b (c + j) = true ∧ q % 64 = (cx + (c + j)) % 64)) := by
  intro len
  induction len with
  | zero => intro c k _; simp [drawBits]
  | succ len ih =>
    intro c k hlen
    rw [drawBits, ih (c + 1) _ (by omega), pixelOf_plot, Bool.xor_assoc]
    congr 1
    by_cases hr : r % 32 = row % 32
    · simp only [hr, true_and]
      by_cases h0 : spriteBit b c = true ∧ q % 64 = (cx + c) % 64
      · have hno : ¬ ∃ j, j < len ∧ spriteBit b (c + 1 + j) = true ∧ q % 64 = (cx + (c + 1 + j)) % 64 := by
          rintro ⟨j, hj, -, hq⟩; omega
        have hyes : ∃ j, j < len + 1 ∧ spriteBit b (c + j) = true ∧ q % 64 = (cx + (c + j)) % 64 := ⟨0, by omega, h0⟩
        rw [decide_eq_false hno, decide_eq_true hyes, decide_eq_true h0.2, h0.1]; rfl
      · have hiff : (∃ j, j < len + 1 ∧ spriteBit b (c + j) = true ∧ q % 64 = (cx + (c + j)) % 64) ↔
            ∃ j, j < len ∧ spriteBit b (c + 1 + j) = true ∧ q % 64 = (cx + (c + 1 + j)) % 64 := by
          constructor
          · rintro ⟨j, hj, hb, hq⟩
            cases j with
            | zero => exact absurd ⟨hb, hq⟩ h0
            | succ j =>
              rw [show c + (j + 1) = c + 1 + j by omega] at hb hq
              exact ⟨j, by omega, hb, hq⟩
          · rintro ⟨j, hj, hb, hq⟩
            refine ⟨j + 1, by omega, ?_⟩
            rw [show c + (j + 1) = c + 1 + j by omega]
            exact ⟨hb, hq⟩
        have h00 : (spriteBit b c && decide (q % 64 = (cx + c) % 64)) = false := by
          rw [← Bool.not_eq_true, Bool.and_eq_true, decide_eq_true_eq]; exact h0
        rw [h00, Bool.false_xor, decide_eq_decide]
        exact hiff.symm
    · simp [hr]

/-- Whether a composited bit of the byte hits a lit pixel, judged on the pixels before any of them is drawn
(44_display.md R124, R125). -/
theorem coll_drawBits (b : Byte) (row cx : Nat) : ∀ (len c : Nat) (k : Canvas), len ≤ 64 →
    ((drawBits k b row cx c len).coll = true ↔ k.coll = true ∨
      ∃ j, j < len ∧ spriteBit b (c + j) = true ∧ pixelOf k.rows row (cx + (c + j)) = true) := by
  intro len
  induction len with
  | zero => intro c k _; simp [drawBits]
  | succ len ih =>
    intro c k hlen
    rw [drawBits, ih (c + 1) _ (by omega), coll_plot, Bool.or_eq_true, Bool.and_eq_true]
    have hpix : ∀ j, j < len → pixelOf (plot k row (cx + c) (spriteBit b c)).rows row (cx + (c + 1 + j)) =
        pixelOf k.rows row (cx + (c + 1 + j)) := by
      intro j hj
      rw [pixelOf_plot, decide_eq_false (by omega), Bool.and_false, Bool.xor_false]
    constructor
    · rintro ((h | ⟨hb, hp⟩) | ⟨j, hj, hb, hp⟩)
      · exact .inl h
      · exact .inr ⟨0, by omega, hb, hp⟩
      · rw [hpix j hj, show c + 1 + j = c + (j + 1) by omega] at hp
        rw [show c + 1 + j = c + (j + 1) by omega] at hb
        exact .inr ⟨j + 1, by omega, hb, hp⟩
    · rintro (h | ⟨j, hj, hb, hp⟩)
      · exact .inl (.inl h)
      · cases j with
        | zero => exact .inl (.inr ⟨hb, hp⟩)
        | succ j =>
          rw [show c + (j + 1) = c + 1 + j by omega] at hb hp
          exact .inr ⟨j, by omega, hb, by rw [hpix j (by omega)]; exact hp⟩

/-- The pixel at row r, column q is a target of a 1 bit of a sprite whose bytes are drawn from `row` down at column `cx`
(44_display.md R121). -/
def SpriteHits (bs : List Byte) (cx row r q : Nat) : Prop :=
  ∃ i, i < bs.length ∧ r % 32 = (row + i) % 32 ∧
    ∃ j, j < 8 ∧ spriteBit (bs.getD i 0) j = true ∧ q % 64 = (cx + j) % 64

theorem spriteHits_cons (b : Byte) (bs : List Byte) (cx row r q : Nat) : SpriteHits (b :: bs) cx row r q ↔
    (r % 32 = row % 32 ∧ ∃ j, j < 8 ∧ spriteBit b j = true ∧ q % 64 = (cx + j) % 64) ∨
      SpriteHits bs cx (row + 1) r q := by
  constructor
  · rintro ⟨i, hi, hr, hj⟩
    cases i with
    | zero => exact .inl ⟨hr, hj⟩
    | succ i => exact .inr ⟨i, by simpa using hi, by rw [hr]; congr 1; omega, hj⟩
  · rintro (⟨hr, hj⟩ | ⟨i, hi, hr, hj⟩)
    · exact ⟨0, by simp, hr, hj⟩
    · exact ⟨i + 1, by simpa using hi, by rw [hr]; congr 1; omega, hj⟩

/-- A bit flipped for one of two causes that exclude each other. -/
theorem flip_either (b : Bool) {P S : Prop} [Decidable P] (h : P → ¬ S) :
    (((b ^^ decide P) = true ∧ ¬ S) ∨ ((b ^^ decide P) = false ∧ S)) ↔
      ((b = true ∧ ¬ (P ∨ S)) ∨ (b = false ∧ (P ∨ S))) := by
  by_cases hP : P
  · have := h hP
    cases b <;> simp [hP, this]
  · cases b <;> simp [hP]

/-- A whole draw: a pixel is flipped exactly when it is a target of a 1 bit; the at most 32 rows are distinct
(44_display.md R123, R125). -/
theorem pixelOf_drawRows (cx r q : Nat) : ∀ (bs : List Byte) (row : Nat) (k : Canvas), bs.length ≤ 32 →
    (pixelOf (drawRows k cx row bs).rows r q = true ↔
      ((pixelOf k.rows r q = true ∧ ¬ SpriteHits bs cx row r q) ∨
        (pixelOf k.rows r q = false ∧ SpriteHits bs cx row r q))) := by
  intro bs
  induction bs with
  | nil => intro row k _; simp [drawRows, SpriteHits]
  | cons b bs ih =>
    intro row k hlen
    simp only [List.length_cons] at hlen
    rw [drawRows, ih (row + 1) _ (by omega), pixelOf_drawBits b row cx r q 8 0 k (by decide), spriteHits_cons]
    simp only [Nat.zero_add]
    have hdisj : (r % 32 = row % 32 ∧ ∃ j, j < 8 ∧ spriteBit b j = true ∧ q % 64 = (cx + j) % 64) →
        ¬ SpriteHits bs cx (row + 1) r q := by
      rintro ⟨hr, -⟩ ⟨i, hi, hr', -⟩; omega
    exact flip_either _ hdisj

/-- A whole draw's collision: some 1 bit's target was lit before the draw (44_display.md R124, R125). -/
theorem coll_drawRows (cx : Nat) : ∀ (bs : List Byte) (row : Nat) (k : Canvas), bs.length ≤ 32 →
    ((drawRows k cx row bs).coll = true ↔ k.coll = true ∨
      ∃ r q, SpriteHits bs cx row r q ∧ pixelOf k.rows r q = true) := by
  intro bs
  induction bs with
  | nil => intro row k _; simp [drawRows, SpriteHits]
  | cons b bs ih =>
    intro row k hlen
    simp only [List.length_cons] at hlen
    have hwrap : ∀ r q r' q', r % 32 = r' % 32 → q % 64 = q' % 64 → pixelOf k.rows r q = pixelOf k.rows r' q' := by
      intro r q r' q' hr hq; simp only [pixelOf, hr, hq]
    rw [drawRows, ih (row + 1) _ (by omega), coll_drawBits b row cx 8 0 k (by decide)]
    simp only [Nat.zero_add, spriteHits_cons]
    have hpix : ∀ r q, SpriteHits bs cx (row + 1) r q →
        pixelOf (drawBits k b row cx 0 8).rows r q = pixelOf k.rows r q := by
      rintro r q ⟨i, hi, hr, -⟩
      rw [pixelOf_drawBits b row cx r q 8 0 k (by decide), decide_eq_false (by rintro ⟨h, -⟩; omega), Bool.xor_false]
    constructor
    · rintro ((h | ⟨j, hj, hb, hp⟩) | ⟨r, q, hs, hp⟩)
      · exact .inl h
      · exact .inr ⟨row, cx + j, .inl ⟨rfl, j, hj, hb, rfl⟩, hp⟩
      · rw [hpix r q hs] at hp; exact .inr ⟨r, q, .inr hs, hp⟩
    · rintro (h | ⟨r, q, ⟨hr, j, hj, hb, hq⟩ | hs, hp⟩)
      · exact .inl (.inl h)
      · rw [hwrap r q row (cx + j) hr hq] at hp; exact .inl (.inr ⟨j, hj, hb, hp⟩)
      · exact .inr ⟨r, q, hs, by rw [hpix r q hs]; exact hp⟩

end Sys2Proof.Machine
end

