-- ==== Sys2Proof/Laws/Frames.lean ====
section
/-! SUPPORT. The frame of each named update: the parts of the state it may change. -/

namespace Sys2Proof.Machine

variable (s : State)

theorem onlyChanges_refl (ps : List Part) : OnlyChanges ps s s := by
  intro p _; cases p <;> first | rfl | exact fun _ => rfl

theorem OnlyChanges.mono {s t : State} {ps qs : List Part} (h : OnlyChanges ps s t) (hsub : ps ⊆ qs) : OnlyChanges qs s t :=
  fun p hp => h p fun hin => hp (hsub hin)

theorem OnlyChanges.trans {s t u : State} {ps : List Part} (h : OnlyChanges ps s t) (h' : OnlyChanges ps t u) :
    OnlyChanges ps s u := by
  intro p hp
  have a := h p hp
  have b := h' p hp
  cases p <;> first | exact b.trans a | exact fun x => (b x).trans (a x)

theorem onlyChanges_setV (x : Reg) (b : Byte) : OnlyChanges [.registers] s (s.setV x b) := by
  intro p hp; cases p <;> first | exact absurd (List.mem_singleton.mpr rfl) hp | rfl | exact fun _ => rfl

theorem onlyChanges_setPc (a : Word) : OnlyChanges [.pc] s (s.setPc a) := by
  intro p hp; cases p <;> first | exact absurd (List.mem_singleton.mpr rfl) hp | rfl | exact fun _ => rfl

theorem onlyChanges_setI (a : Word) : OnlyChanges [.index] s (s.setI a) := by
  intro p hp; cases p <;> first | exact absurd (List.mem_singleton.mpr rfl) hp | rfl | exact fun _ => rfl

theorem onlyChanges_setDT (b : Byte) : OnlyChanges [.dt] s (s.setDT b) := by
  intro p hp; cases p <;> first | exact absurd (List.mem_singleton.mpr rfl) hp | rfl | exact fun _ => rfl

theorem onlyChanges_setST (b : Byte) : OnlyChanges [.st] s (s.setST b) := by
  intro p hp; cases p <;> first | exact absurd (List.mem_singleton.mpr rfl) hp | rfl | exact fun _ => rfl

theorem onlyChanges_setDisplay (d : Vector Row 32) : OnlyChanges [.display] s (s.setDisplay d) := by
  intro p hp; cases p <;> first | exact absurd (List.mem_singleton.mpr rfl) hp | rfl | exact fun _ => rfl

theorem onlyChanges_setDirty (b : Bool) : OnlyChanges [.dirty] s (s.setDirty b) := by
  intro p hp; cases p <;> first | exact absurd (List.mem_singleton.mpr rfl) hp | rfl | exact fun _ => rfl

theorem onlyChanges_setResult (r : StepResult) : OnlyChanges [.result] s (s.setResult r) := by
  intro p hp; cases p <;> first | exact absurd (List.mem_singleton.mpr rfl) hp | rfl | exact fun _ => rfl

theorem onlyChanges_store (base : Nat) (bs : List Byte) : OnlyChanges [.memory] s (s.store base bs) := by
  intro p hp; cases p <;> first | exact absurd (List.mem_singleton.mpr rfl) hp | rfl | exact fun _ => rfl

theorem onlyChanges_loadV (bs : List Byte) : OnlyChanges [.registers] s (s.loadV bs) := by
  intro p hp; cases p <;> first | exact absurd (List.mem_singleton.mpr rfl) hp | rfl | exact fun _ => rfl

theorem onlyChanges_skipIf (c : Bool) : OnlyChanges [.pc] s (s.skipIf c) := by
  rw [skipIf_eq_setPc]; exact onlyChanges_setPc s _

theorem onlyChanges_flagThenResult (f : Byte) (x : Reg) (r : Byte) : OnlyChanges [.registers] s (s.flagThenResult f x r) :=
  (onlyChanges_setV s VF f).trans (onlyChanges_setV _ x r)

/-- Raising a fatal condition writes the record and nothing else. -/
theorem fatallyHalts_raiseFatal (k : FatalKind) (n : Nat) : FatallyHalts k n s (s.raiseFatal k n) := by
  refine ⟨rfl, rfl, ?_⟩
  intro p hp
  cases p <;> first | exact absurd (by decide) hp | rfl | exact fun _ => rfl

theorem regsOnly_setV (x : Reg) (b : Byte) : RegsOnly [x] s (s.setV x b) :=
  fun _ hr => getV_setV_other s b (by simpa using hr)

theorem regsOnly_flagThenResult (f : Byte) (x : Reg) (r : Byte) : RegsOnly [x, VF] s (s.flagThenResult f x r) := by
  intro q hq
  simp only [List.mem_cons, List.not_mem_nil, or_false, not_or] at hq
  rw [getV_flagThenResult, if_neg hq.1, if_neg hq.2]

end Sys2Proof.Machine
end

