-- ==== Sys2Proof/Laws/Exec.lean ====
section
/-! SUPPORT. The next state each instruction answers, as one equation per constructor over the shared operations, and the fields the
composite operations leave alone: a claim over instructions rewrites with these and never unfolds `exec`. -/

namespace Sys2Proof.Machine

variable (s : State)

/-! ### One equation per instruction -/

@[simp] theorem exec_cls : exec .cls s = .next ((s.setDisplay (Vector.replicate 32 0)).setDirty true) := rfl
@[simp] theorem exec_ret : exec .ret s = .next (if s.sp = 0 then s.raiseFatal .stackUnderflow 0 else (s.setPc (s.getS (s.sp - 1))).pop) := rfl
@[simp] theorem exec_sys (nnn : Addr12) : exec (.sys nnn) s = .next s := rfl
@[simp] theorem exec_jp (nnn : Addr12) : exec (.jp nnn) s = .next (s.setPc (addrOfImm nnn)) := rfl
@[simp] theorem exec_call (nnn : Addr12) : exec (.call nnn) s = .next (if s.sp < Config.stackDepth then (s.push s.pc).setPc (addrOfImm nnn) else s.raiseFatal .stackOverflow 16) := rfl
@[simp] theorem exec_seImm (x : Reg) (nn : Byte) : exec (.seImm x nn) s = .next (s.skipIf (s.getV x == nn)) := rfl
@[simp] theorem exec_sneImm (x : Reg) (nn : Byte) : exec (.sneImm x nn) s = .next (s.skipIf (s.getV x != nn)) := rfl
@[simp] theorem exec_seReg (x y : Reg) : exec (.seReg x y) s = .next (s.skipIf (s.getV x == s.getV y)) := rfl
@[simp] theorem exec_nop5 (x y : Reg) (n : Nibble) : exec (.nop5 x y n) s = .next s := rfl
@[simp] theorem exec_ldImm (x : Reg) (nn : Byte) : exec (.ldImm x nn) s = .next (s.setV x nn) := rfl
@[simp] theorem exec_addImm (x : Reg) (nn : Byte) : exec (.addImm x nn) s = .next (s.setV x (s.getV x + nn)) := rfl
@[simp] theorem exec_ldReg (x y : Reg) : exec (.ldReg x y) s = .next (s.setV x (s.getV y)) := rfl
@[simp] theorem exec_orReg (x y : Reg) : exec (.orReg x y) s = .next (s.setV x (s.getV x ||| s.getV y)) := rfl
@[simp] theorem exec_andReg (x y : Reg) : exec (.andReg x y) s = .next (s.setV x (s.getV x &&& s.getV y)) := rfl
@[simp] theorem exec_xorReg (x y : Reg) : exec (.xorReg x y) s = .next (s.setV x (s.getV x ^^^ s.getV y)) := rfl
@[simp] theorem exec_addReg (x y : Reg) : exec (.addReg x y) s = .next (s.flagThenResult (carryFlag (s.getV x) (s.getV y)) x (s.getV x + s.getV y)) := rfl
@[simp] theorem exec_sub (x y : Reg) : exec (.sub x y) s = .next (s.flagThenResult (notBorrowFlag (s.getV x) (s.getV y)) x (s.getV x - s.getV y)) := rfl
@[simp] theorem exec_shr (x y : Reg) : exec (.shr x y) s = .next (s.flagThenResult (lowBitFlag (s.shiftOperand x y)) x (s.shiftOperand x y >>> 1)) := rfl
@[simp] theorem exec_subn (x y : Reg) : exec (.subn x y) s = .next (s.flagThenResult (notBorrowFlag (s.getV y) (s.getV x)) x (s.getV y - s.getV x)) := rfl
@[simp] theorem exec_shl (x y : Reg) : exec (.shl x y) s = .next (s.flagThenResult (highBitFlag (s.shiftOperand x y)) x (s.shiftOperand x y <<< 1)) := rfl
@[simp] theorem exec_nop8 (x y : Reg) (n : Nibble) : exec (.nop8 x y n) s = .next s := rfl
@[simp] theorem exec_sneReg (x y : Reg) : exec (.sneReg x y) s = .next (s.skipIf (s.getV x != s.getV y)) := rfl
@[simp] theorem exec_nop9 (x y : Reg) (n : Nibble) : exec (.nop9 x y n) s = .next s := rfl
@[simp] theorem exec_ldI (nnn : Addr12) : exec (.ldI nnn) s = .next (s.setI (addrOfImm nnn)) := rfl
@[simp] theorem exec_jpV0 (nnn : Addr12) : exec (.jpV0 nnn) s = .next (s.setPc (jumpTarget nnn (s.getV V0))) := rfl
@[simp] theorem exec_rnd (x : Reg) (nn : Byte) : exec (.rnd x nn) s = .next (s.setV x (s.ctx.rnd &&& nn)) := rfl
@[simp] theorem exec_drw (x y : Reg) (n : Nibble) : exec (.drw x y n) s = .next (s.guardRange s.iAddr n.toNat (s.putCanvas (s.drawSprite x y n))) := rfl
@[simp] theorem exec_skp (x : Reg) : exec (.skp x) s = .next (s.keyTest x true) := rfl
@[simp] theorem exec_sknp (x : Reg) : exec (.sknp x) s = .next (s.keyTest x false) := rfl
@[simp] theorem exec_nopE (x : Reg) (nn : Byte) : exec (.nopE x nn) s = .next s := rfl
@[simp] theorem exec_ldVxDT (x : Reg) : exec (.ldVxDT x) s = .next (s.setV x s.dt) := rfl
@[simp] theorem exec_ldVxK (x : Reg) : exec (.ldVxK x) s = .next (s.waitKey x) := rfl
@[simp] theorem exec_ldDTVx (x : Reg) : exec (.ldDTVx x) s = .next (s.setDT (s.getV x)) := rfl
@[simp] theorem exec_ldSTVx (x : Reg) : exec (.ldSTVx x) s = .next (s.setST (s.getV x)) := rfl
@[simp] theorem exec_addI (x : Reg) : exec (.addI x) s = .next (s.setI (s.ireg + wordOfByte (s.getV x))) := rfl
@[simp] theorem exec_ldF (x : Reg) : exec (.ldF x) s = .next (s.setI (glyphAddr s.config.fontStride (s.getV x))) := rfl
@[simp] theorem exec_ldB (x : Reg) : exec (.ldB x) s = .next (s.guardRange s.iAddr 3 (s.store s.iAddr (bcdDigits (s.getV x)))) := rfl
@[simp] theorem exec_storeRegs (x : Reg) : exec (.storeRegs x) s = .next (s.guardRange s.iAddr (x.val + 1) (s.store s.iAddr (s.regsUpTo x))) := rfl
@[simp] theorem exec_loadRegs (x : Reg) : exec (.loadRegs x) s = .next (s.guardRange s.iAddr (x.val + 1) (s.loadV (loadBytes s.mem s.iAddr (x.val + 1)))) := rfl
@[simp] theorem exec_nopF (x : Reg) (nn : Byte) : exec (.nopF x nn) s = .next s := rfl

/-! ### A skip leaves every field but pc -/

@[simp] theorem skipIf_v (c : Bool) : (s.skipIf c).v = s.v := by cases c <;> rfl
@[simp] theorem skipIf_ireg (c : Bool) : (s.skipIf c).ireg = s.ireg := by cases c <;> rfl
@[simp] theorem skipIf_stack (c : Bool) : (s.skipIf c).stack = s.stack := by cases c <;> rfl
@[simp] theorem skipIf_sp (c : Bool) : (s.skipIf c).sp = s.sp := by cases c <;> rfl
@[simp] theorem skipIf_dt (c : Bool) : (s.skipIf c).dt = s.dt := by cases c <;> rfl
@[simp] theorem skipIf_st (c : Bool) : (s.skipIf c).st = s.st := by cases c <;> rfl
@[simp] theorem skipIf_display (c : Bool) : (s.skipIf c).display = s.display := by cases c <;> rfl
@[simp] theorem skipIf_mem (c : Bool) : (s.skipIf c).mem = s.mem := by cases c <;> rfl
@[simp] theorem skipIf_dirty (c : Bool) : (s.skipIf c).dirty = s.dirty := by cases c <;> rfl
@[simp] theorem skipIf_halted (c : Bool) : (s.skipIf c).halted = s.halted := by cases c <;> rfl
@[simp] theorem skipIf_config (c : Bool) : (s.skipIf c).config = s.config := by cases c <;> rfl
@[simp] theorem skipIf_ctx (c : Bool) : (s.skipIf c).ctx = s.ctx := by cases c <;> rfl
@[simp] theorem skipIf_result (c : Bool) : (s.skipIf c).result = s.result := by cases c <;> rfl
@[simp] theorem skipIf_inputs (c : Bool) : (s.skipIf c).inputs = s.inputs := by cases c <;> rfl
@[simp] theorem skipIf_seq (c : Bool) : (s.skipIf c).seq = s.seq := by cases c <;> rfl

/-! ### A flagged result leaves every field but the registers -/

@[simp] theorem flagThenResult_pc (f : Byte) (x : Reg) (r : Byte) : (s.flagThenResult f x r).pc = s.pc := rfl
@[simp] theorem flagThenResult_ireg (f : Byte) (x : Reg) (r : Byte) : (s.flagThenResult f x r).ireg = s.ireg := rfl
@[simp] theorem flagThenResult_stack (f : Byte) (x : Reg) (r : Byte) : (s.flagThenResult f x r).stack = s.stack := rfl
@[simp] theorem flagThenResult_sp (f : Byte) (x : Reg) (r : Byte) : (s.flagThenResult f x r).sp = s.sp := rfl
@[simp] theorem flagThenResult_dt (f : Byte) (x : Reg) (r : Byte) : (s.flagThenResult f x r).dt = s.dt := rfl
@[simp] theorem flagThenResult_st (f : Byte) (x : Reg) (r : Byte) : (s.flagThenResult f x r).st = s.st := rfl
@[simp] theorem flagThenResult_display (f : Byte) (x : Reg) (r : Byte) : (s.flagThenResult f x r).display = s.display := rfl
@[simp] theorem flagThenResult_mem (f : Byte) (x : Reg) (r : Byte) : (s.flagThenResult f x r).mem = s.mem := rfl
@[simp] theorem flagThenResult_dirty (f : Byte) (x : Reg) (r : Byte) : (s.flagThenResult f x r).dirty = s.dirty := rfl
@[simp] theorem flagThenResult_halted (f : Byte) (x : Reg) (r : Byte) : (s.flagThenResult f x r).halted = s.halted := rfl
@[simp] theorem flagThenResult_config (f : Byte) (x : Reg) (r : Byte) : (s.flagThenResult f x r).config = s.config := rfl
@[simp] theorem flagThenResult_ctx (f : Byte) (x : Reg) (r : Byte) : (s.flagThenResult f x r).ctx = s.ctx := rfl
@[simp] theorem flagThenResult_result (f : Byte) (x : Reg) (r : Byte) : (s.flagThenResult f x r).result = s.result := rfl
@[simp] theorem flagThenResult_inputs (f : Byte) (x : Reg) (r : Byte) : (s.flagThenResult f x r).inputs = s.inputs := rfl
@[simp] theorem flagThenResult_seq (f : Byte) (x : Reg) (r : Byte) : (s.flagThenResult f x r).seq = s.seq := rfl

/-! ### What an instruction can do -/

/-- Every instruction answers a next state. -/
theorem exec_answers_next (i : Instr) : ∃ t, exec i s = .next t := by cases i <;> exact ⟨_, rfl⟩

/-- A key test: the fatal condition for a value above 0xF, else a skip. -/
theorem keyTest_cases (x : Reg) (down : Bool) :
    (0xF < (s.getV x).toNat ∧ s.keyTest x down = s.raiseFatal .invalidKeyIndex (s.getV x).toNat) ∨
    ((s.getV x).toNat ≤ 0xF ∧ s.keyTest x down = s.skipIf (isDown s.ctx.keys (s.getV x).toNat == down)) := by
  unfold State.keyTest
  split
  · exact .inl ⟨‹_›, rfl⟩
  · exact .inr ⟨by omega, rfl⟩

/-- A key wait: a key down goes to Vx, or no key is down and the step is tried again. -/
theorem waitKey_cases (x : Reg) :
    (∃ k, anyDown s.ctx.keys = some k ∧ s.waitKey x = s.setV x (BitVec.ofNat 8 k)) ∨
    (s.ctx.keys = 0 ∧ s.waitKey x = (s.setPc (s.pc - 2)).setResult .needsInput) := by
  unfold State.waitKey
  cases hk : anyDown s.ctx.keys with
  | some k => exact .inl ⟨k, rfl, rfl⟩
  | none =>
    refine .inr ⟨?_, rfl⟩
    apply BitVec.eq_of_getLsbD_eq
    intro j hj
    simp only [anyDown, List.find?_eq_none, List.mem_range] at hk
    simpa [isDown] using hk j hj

end Sys2Proof.Machine
end

