-- ==== Sys2Proof/Laws/PerInstr.lean ====
section
/-! SUPPORT. A fact about every instruction as syntax, one lemma per constructor: its word carries the fixed bits of its row of
spec/opcode_table.json. -/

namespace Sys2Proof.Laws.RowEncoding

/-- The instruction's word, masked as its row masks it, is the row's match value (30_encoding.md R55). -/
def Statement (i : Instr) : Prop :=
  ∃ row, row ∈ opcodeTable ∧ row.id = i.rowId ∧ row.matchesWord (encode i) = true

/-! ### The masked words of the formats -/

theorem wordNNN_family (op : Nibble) (nnn : Addr12) : wordNNN op nnn &&& 0xF000#16 = wordNNN op 0#12 := by
  apply BitVec.eq_of_getLsbD_eq; intro k hk
  rw [BitVec.getLsbD_and, getLsbD_wordNNN, getLsbD_wordNNN]
  interval_cases k <;> simp

theorem wordXNN_family (op : Nibble) (x : Reg) (nn : Byte) : wordXNN op x nn &&& 0xF000#16 = wordXNN op 0 0#8 := by
  apply BitVec.eq_of_getLsbD_eq; intro k hk
  rw [BitVec.getLsbD_and, getLsbD_wordXNN, getLsbD_wordXNN]
  interval_cases k <;> simp [nibbleOfReg]

theorem wordXNN_selector (op : Nibble) (x : Reg) (nn : Byte) : wordXNN op x nn &&& 0xF0FF#16 = wordXNN op 0 nn := by
  apply BitVec.eq_of_getLsbD_eq; intro k hk
  rw [BitVec.getLsbD_and, getLsbD_wordXNN, getLsbD_wordXNN]
  interval_cases k <;> simp [nibbleOfReg]

theorem wordXYN_family (op : Nibble) (x y : Reg) (n : Nibble) : wordXYN op x y n &&& 0xF000#16 = wordXYN op 0 0 0#4 := by
  apply BitVec.eq_of_getLsbD_eq; intro k hk
  rw [BitVec.getLsbD_and, getLsbD_wordXYN, getLsbD_wordXYN]
  interval_cases k <;> simp [nibbleOfReg]

theorem wordXYN_selector (op : Nibble) (x y : Reg) (n : Nibble) : wordXYN op x y n &&& 0xF00F#16 = wordXYN op 0 0 n := by
  apply BitVec.eq_of_getLsbD_eq; intro k hk
  rw [BitVec.getLsbD_and, getLsbD_wordXYN, getLsbD_wordXYN]
  interval_cases k <;> simp [nibbleOfReg]

/-! ### One lemma per constructor -/

theorem cls : Statement .cls :=
  ⟨⟨.r00E0, 0x00E0, 0xFFFF, 0⟩, by decide, rfl, rfl⟩

theorem ret : Statement .ret :=
  ⟨⟨.r00EE, 0x00EE, 0xFFFF, 0⟩, by decide, rfl, rfl⟩

theorem sys (nnn : Addr12) : Statement (.sys nnn) :=
  ⟨⟨.r0nnn, 0x0000, 0xF000, 3⟩, by decide, rfl, beq_iff_eq.mpr (wordNNN_family .. |>.trans rfl)⟩

theorem jp (nnn : Addr12) : Statement (.jp nnn) :=
  ⟨⟨.r1nnn, 0x1000, 0xF000, 3⟩, by decide, rfl, beq_iff_eq.mpr (wordNNN_family .. |>.trans rfl)⟩

theorem call (nnn : Addr12) : Statement (.call nnn) :=
  ⟨⟨.r2nnn, 0x2000, 0xF000, 3⟩, by decide, rfl, beq_iff_eq.mpr (wordNNN_family .. |>.trans rfl)⟩

theorem seImm (x : Reg) (nn : Byte) : Statement (.seImm x nn) :=
  ⟨⟨.r3xnn, 0x3000, 0xF000, 3⟩, by decide, rfl, beq_iff_eq.mpr (wordXNN_family .. |>.trans rfl)⟩

theorem sneImm (x : Reg) (nn : Byte) : Statement (.sneImm x nn) :=
  ⟨⟨.r4xnn, 0x4000, 0xF000, 3⟩, by decide, rfl, beq_iff_eq.mpr (wordXNN_family .. |>.trans rfl)⟩

theorem seReg (x y : Reg) : Statement (.seReg x y) :=
  ⟨⟨.r5xy0, 0x5000, 0xF00F, 2⟩, by decide, rfl, beq_iff_eq.mpr (wordXYN_selector .. |>.trans rfl)⟩

theorem nop5 (x y : Reg) (n : Nibble) : Statement (.nop5 x y n) :=
  ⟨⟨.r5xynOther, 0x5000, 0xF000, 3⟩, by decide, rfl, beq_iff_eq.mpr (wordXYN_family .. |>.trans rfl)⟩

theorem ldImm (x : Reg) (nn : Byte) : Statement (.ldImm x nn) :=
  ⟨⟨.r6xnn, 0x6000, 0xF000, 3⟩, by decide, rfl, beq_iff_eq.mpr (wordXNN_family .. |>.trans rfl)⟩

theorem addImm (x : Reg) (nn : Byte) : Statement (.addImm x nn) :=
  ⟨⟨.r7xnn, 0x7000, 0xF000, 3⟩, by decide, rfl, beq_iff_eq.mpr (wordXNN_family .. |>.trans rfl)⟩

theorem ldReg (x y : Reg) : Statement (.ldReg x y) :=
  ⟨⟨.r8xy0, 0x8000, 0xF00F, 2⟩, by decide, rfl, beq_iff_eq.mpr (wordXYN_selector .. |>.trans rfl)⟩

theorem orReg (x y : Reg) : Statement (.orReg x y) :=
  ⟨⟨.r8xy1, 0x8001, 0xF00F, 2⟩, by decide, rfl, beq_iff_eq.mpr (wordXYN_selector .. |>.trans rfl)⟩

theorem andReg (x y : Reg) : Statement (.andReg x y) :=
  ⟨⟨.r8xy2, 0x8002, 0xF00F, 2⟩, by decide, rfl, beq_iff_eq.mpr (wordXYN_selector .. |>.trans rfl)⟩

theorem xorReg (x y : Reg) : Statement (.xorReg x y) :=
  ⟨⟨.r8xy3, 0x8003, 0xF00F, 2⟩, by decide, rfl, beq_iff_eq.mpr (wordXYN_selector .. |>.trans rfl)⟩

theorem addReg (x y : Reg) : Statement (.addReg x y) :=
  ⟨⟨.r8xy4, 0x8004, 0xF00F, 2⟩, by decide, rfl, beq_iff_eq.mpr (wordXYN_selector .. |>.trans rfl)⟩

theorem sub (x y : Reg) : Statement (.sub x y) :=
  ⟨⟨.r8xy5, 0x8005, 0xF00F, 2⟩, by decide, rfl, beq_iff_eq.mpr (wordXYN_selector .. |>.trans rfl)⟩

theorem shr (x y : Reg) : Statement (.shr x y) :=
  ⟨⟨.r8xy6, 0x8006, 0xF00F, 2⟩, by decide, rfl, beq_iff_eq.mpr (wordXYN_selector .. |>.trans rfl)⟩

theorem subn (x y : Reg) : Statement (.subn x y) :=
  ⟨⟨.r8xy7, 0x8007, 0xF00F, 2⟩, by decide, rfl, beq_iff_eq.mpr (wordXYN_selector .. |>.trans rfl)⟩

theorem shl (x y : Reg) : Statement (.shl x y) :=
  ⟨⟨.r8xyE, 0x800E, 0xF00F, 2⟩, by decide, rfl, beq_iff_eq.mpr (wordXYN_selector .. |>.trans rfl)⟩

theorem nop8 (x y : Reg) (n : Nibble) : Statement (.nop8 x y n) :=
  ⟨⟨.r8xynOther, 0x8000, 0xF000, 3⟩, by decide, rfl, beq_iff_eq.mpr (wordXYN_family .. |>.trans rfl)⟩

theorem sneReg (x y : Reg) : Statement (.sneReg x y) :=
  ⟨⟨.r9xy0, 0x9000, 0xF00F, 2⟩, by decide, rfl, beq_iff_eq.mpr (wordXYN_selector .. |>.trans rfl)⟩

theorem nop9 (x y : Reg) (n : Nibble) : Statement (.nop9 x y n) :=
  ⟨⟨.r9xynOther, 0x9000, 0xF000, 3⟩, by decide, rfl, beq_iff_eq.mpr (wordXYN_family .. |>.trans rfl)⟩

theorem ldI (nnn : Addr12) : Statement (.ldI nnn) :=
  ⟨⟨.rAnnn, 0xA000, 0xF000, 3⟩, by decide, rfl, beq_iff_eq.mpr (wordNNN_family .. |>.trans rfl)⟩

theorem jpV0 (nnn : Addr12) : Statement (.jpV0 nnn) :=
  ⟨⟨.rBnnn, 0xB000, 0xF000, 3⟩, by decide, rfl, beq_iff_eq.mpr (wordNNN_family .. |>.trans rfl)⟩

theorem rnd (x : Reg) (nn : Byte) : Statement (.rnd x nn) :=
  ⟨⟨.rCxnn, 0xC000, 0xF000, 3⟩, by decide, rfl, beq_iff_eq.mpr (wordXNN_family .. |>.trans rfl)⟩

theorem drw (x y : Reg) (n : Nibble) : Statement (.drw x y n) :=
  ⟨⟨.rDxyn, 0xD000, 0xF000, 3⟩, by decide, rfl, beq_iff_eq.mpr (wordXYN_family .. |>.trans rfl)⟩

theorem skp (x : Reg) : Statement (.skp x) :=
  ⟨⟨.rEx9E, 0xE09E, 0xF0FF, 1⟩, by decide, rfl, beq_iff_eq.mpr (wordXNN_selector .. |>.trans rfl)⟩

theorem sknp (x : Reg) : Statement (.sknp x) :=
  ⟨⟨.rExA1, 0xE0A1, 0xF0FF, 1⟩, by decide, rfl, beq_iff_eq.mpr (wordXNN_selector .. |>.trans rfl)⟩

theorem nopE (x : Reg) (nn : Byte) : Statement (.nopE x nn) :=
  ⟨⟨.rExnnOther, 0xE000, 0xF000, 3⟩, by decide, rfl, beq_iff_eq.mpr (wordXNN_family .. |>.trans rfl)⟩

theorem ldVxDT (x : Reg) : Statement (.ldVxDT x) :=
  ⟨⟨.rFx07, 0xF007, 0xF0FF, 1⟩, by decide, rfl, beq_iff_eq.mpr (wordXNN_selector .. |>.trans rfl)⟩

theorem ldVxK (x : Reg) : Statement (.ldVxK x) :=
  ⟨⟨.rFx0A, 0xF00A, 0xF0FF, 1⟩, by decide, rfl, beq_iff_eq.mpr (wordXNN_selector .. |>.trans rfl)⟩

theorem ldDTVx (x : Reg) : Statement (.ldDTVx x) :=
  ⟨⟨.rFx15, 0xF015, 0xF0FF, 1⟩, by decide, rfl, beq_iff_eq.mpr (wordXNN_selector .. |>.trans rfl)⟩

theorem ldSTVx (x : Reg) : Statement (.ldSTVx x) :=
  ⟨⟨.rFx18, 0xF018, 0xF0FF, 1⟩, by decide, rfl, beq_iff_eq.mpr (wordXNN_selector .. |>.trans rfl)⟩

theorem addI (x : Reg) : Statement (.addI x) :=
  ⟨⟨.rFx1E, 0xF01E, 0xF0FF, 1⟩, by decide, rfl, beq_iff_eq.mpr (wordXNN_selector .. |>.trans rfl)⟩

theorem ldF (x : Reg) : Statement (.ldF x) :=
  ⟨⟨.rFx29, 0xF029, 0xF0FF, 1⟩, by decide, rfl, beq_iff_eq.mpr (wordXNN_selector .. |>.trans rfl)⟩

theorem ldB (x : Reg) : Statement (.ldB x) :=
  ⟨⟨.rFx33, 0xF033, 0xF0FF, 1⟩, by decide, rfl, beq_iff_eq.mpr (wordXNN_selector .. |>.trans rfl)⟩

theorem storeRegs (x : Reg) : Statement (.storeRegs x) :=
  ⟨⟨.rFx55, 0xF055, 0xF0FF, 1⟩, by decide, rfl, beq_iff_eq.mpr (wordXNN_selector .. |>.trans rfl)⟩

theorem loadRegs (x : Reg) : Statement (.loadRegs x) :=
  ⟨⟨.rFx65, 0xF065, 0xF0FF, 1⟩, by decide, rfl, beq_iff_eq.mpr (wordXNN_selector .. |>.trans rfl)⟩

theorem nopF (x : Reg) (nn : Byte) : Statement (.nopF x nn) :=
  ⟨⟨.rFxnnOther, 0xF000, 0xF000, 3⟩, by decide, rfl, beq_iff_eq.mpr (wordXNN_family .. |>.trans rfl)⟩

end Sys2Proof.Laws.RowEncoding
end

