-- ==== Sys2Proof/Laws/Transactions.lean ====
section
/-! SUPPORT. What the fetch, the ticks, the host's phase and a step can do, said once. -/

namespace Sys2Proof.Machine

variable (s : State)

/-- The fetch of a word that lies in memory. -/
theorem fetch_ok (h : s.pc.toNat + 2 ≤ 4096) :
    s.fetch = .ok (loadWord s.mem s.pc.toNat, s.latchWord (loadWord s.mem s.pc.toNat)) := by
  unfold State.fetch; rw [rangeFault_eq_none.mpr (.inr h)]

/-- The fetch of a word that does not. -/
theorem fetch_error (h : 4096 < s.pc.toNat + 2) :
    s.fetch = .error (s.raiseFatal .memoryOutOfRange (max s.pc.toNat 4096)) := by
  unfold State.fetch; rw [rangeFault_eq_some.mpr ⟨by decide, h, rfl⟩]

/-- Everything `step(keys, rnd)` can do. -/
theorem stepWith_cases (keys : Word) (rnd : Byte) :
    (∃ r, s.halted = some r ∧ stepWith keys rnd s = .fault (.halted r)) ∨
    (s.halted = none ∧ 4096 < s.pc.toNat + 2 ∧ stepWith keys rnd s =
      .next ((s.beginStep keys rnd).raiseFatal .memoryOutOfRange (max s.pc.toNat 4096))) ∨
    (s.halted = none ∧ s.pc.toNat + 2 ≤ 4096 ∧ stepWith keys rnd s =
      exec (decodeWord (loadWord s.mem s.pc.toNat))
        ((s.beginStep keys rnd).latchWord (loadWord s.mem s.pc.toNat))) := by
  unfold stepWith
  cases hh : s.halted with
  | some r => exact .inl ⟨r, rfl, rfl⟩
  | none =>
    by_cases h : s.pc.toNat + 2 ≤ 4096
    · refine .inr (.inr ⟨rfl, h, ?_⟩)
      rw [fetch_ok (s.beginStep keys rnd) h]; rfl
    · refine .inr (.inl ⟨rfl, by omega, ?_⟩)
      rw [fetch_error (s.beginStep keys rnd) (show 4096 < s.pc.toNat + 2 by omega)]; rfl

/-- A step that goes on is `step(keys, rnd)` with the host's next inputs, then the host's phase. -/
theorem step_eq_next {t : State} (h : step s = .next t) :
    ∃ u, stepWith s.nextInput.keys s.nextInput.rnd s.consumeInput = .next u ∧ t = u.hostPhase s.nextInput := by
  unfold step at h
  cases hs : stepWith s.nextInput.keys s.nextInput.rnd s.consumeInput with
  | next u => rw [hs] at h; exact ⟨u, rfl, by simpa using h.symm⟩
  | fault f => rw [hs] at h; simp at h
  | refused r => rw [hs] at h; simp at h

/-- `k + 1` ticks are `k` ticks and one more. -/
theorem tickTimes_succ (k : Nat) : s.tickTimes (k + 1) = (s.tickTimes k).tickTimers := rfl

@[simp] theorem tickTimes_zero : s.tickTimes 0 = s := rfl

/-! ### The host's phase changes the timers and `dirty` alone -/

section
variable (h : HostInput)

@[simp] theorem hostPhase_v : (s.hostPhase h).v = s.v := by unfold State.hostPhase; split <;> rfl
@[simp] theorem hostPhase_pc : (s.hostPhase h).pc = s.pc := by unfold State.hostPhase; split <;> rfl
@[simp] theorem hostPhase_ireg : (s.hostPhase h).ireg = s.ireg := by unfold State.hostPhase; split <;> rfl
@[simp] theorem hostPhase_stack : (s.hostPhase h).stack = s.stack := by unfold State.hostPhase; split <;> rfl
@[simp] theorem hostPhase_sp : (s.hostPhase h).sp = s.sp := by unfold State.hostPhase; split <;> rfl
@[simp] theorem hostPhase_display : (s.hostPhase h).display = s.display := by unfold State.hostPhase; split <;> rfl
@[simp] theorem hostPhase_mem : (s.hostPhase h).mem = s.mem := by unfold State.hostPhase; split <;> rfl
@[simp] theorem hostPhase_halted : (s.hostPhase h).halted = s.halted := by unfold State.hostPhase; split <;> rfl
@[simp] theorem hostPhase_config : (s.hostPhase h).config = s.config := by unfold State.hostPhase; split <;> rfl
@[simp] theorem hostPhase_ctx : (s.hostPhase h).ctx = s.ctx := by unfold State.hostPhase; split <;> rfl
@[simp] theorem hostPhase_result : (s.hostPhase h).result = s.result := by unfold State.hostPhase; split <;> rfl
@[simp] theorem hostPhase_inputs : (s.hostPhase h).inputs = s.inputs := by unfold State.hostPhase; split <;> rfl
@[simp] theorem hostPhase_seq : (s.hostPhase h).seq = s.seq := by unfold State.hostPhase; split <;> rfl
@[simp] theorem hostPhase_dirty : (s.hostPhase h).dirty = (s.dirty && !h.present) := rfl

theorem hostPhase_dt :
    (s.hostPhase h).dt = if s.halted.isNone then tickTimerTimes s.config.timerUnderflow s.dt h.ticks else s.dt := by
  unfold State.hostPhase; split <;> rfl

theorem hostPhase_st :
    (s.hostPhase h).st = if s.halted.isNone then tickTimerTimes s.config.timerUnderflow s.st h.ticks else s.st := by
  unfold State.hostPhase; split <;> rfl

end

/-! ### Storing the next word -/

/-- The state with a word stored at pc fetches that word. -/
theorem loadWord_storeWord {m : Memory} {a : Nat} (w : Word) (hm : m.wf = true) (ha : a + 2 ≤ 4096) :
    loadWord (storeWord m a w) a = w := by
  have hlen : a + [highByte w, lowByte w].length ≤ 4096 := ha
  unfold loadWord storeWord
  rw [get_storeBytes hlen hm, get_storeBytes hlen hm, if_pos (by simp), if_pos (by simp), Nat.sub_self,
    show a + 1 - a = 1 by omega]
  simp

/-! ### The canonical form of memory -/

theorem wf_storeWord {m : Memory} {a : Nat} (w : Word) (ha : a + 2 ≤ 4096) (hm : m.wf = true) : (storeWord m a w).wf = true :=
  wf_storeBytes (bs := [highByte w, lowByte w]) ha hm

/-- Placing the next word keeps the canonical form. -/
theorem wf_withFetchWord (nbits w : Nat) (hm : s.mem.wf = true) : (s.withFetchWord nbits w).mem.wf = true := by
  unfold State.withFetchWord
  split
  · exact wf_storeWord _ ‹_› hm
  · exact hm

/-- Reset memory lists nothing. -/
theorem wf_reset : State.reset.mem.wf = true := rfl

end Sys2Proof.Machine
end

