-- ==== Sys2Proof/Tests/Slice0.lean ====
section
/-! SUPPORT. Tests of the model: the well-formedness check, words written out from 30_encoding.md R54, single steps whose
expected results are those of spec/95_test_vectors.md (its part is named at each), and a witness for the hypotheses of every
statement of Certificates/Slice0/Obligations.lean that has any. -/

namespace Sys2Proof.Tests

open Sys2Proof Sys2Proof.Machine

/-! ### Helpers -/

/-- The state after one `step(keys, rnd)` of a word placed at pc. -/
def ran (keys : Word) (rnd : Byte) (w : Nat) (s : State) : Option State :=
  match stepWith keys rnd (s.withFetchWord 16 w) with
  | .next t => some t
  | _ => none

/-- The reset state with V0 and V1. -/
def with01 (a b : Byte) : State := (State.reset.setV 0 a).setV 1 b

/-- The reset state with one field of Config changed. -/
def withConfig (c : Config) : State := { State.reset with config := c }

/-- V0, VF and pc after a step. -/
def flagged (t : State) : Byte × Byte × Word := (t.getV 0, t.getV VF, t.pc)

/-- A fatal record raised by the instruction at 0x200. -/
def fatalAt200 (kind : FatalKind) (info : Nat) (w : Word) : FatalRecord :=
  { kind := kind, info := info, addr := 0x200, word := some w }

/-- A host input that neither ticks nor presents. -/
def quiet : HostInput := { keys := 0, rnd := 0, ticks := 0, present := false }

/-! ### Ill-formed terms are refused (30_encoding.md R54) -/

theorem test_wf_sys_cls : (Instr.sys 0x0E0).wellFormed = false := by decide
theorem test_wf_sys_ret : (Instr.sys 0x0EE).wellFormed = false := by decide
theorem test_wf_nop5 : (Instr.nop5 1 2 0).wellFormed = false := by decide
theorem test_wf_nop8 : (Instr.nop8 1 2 0xE).wellFormed = false := by decide
theorem test_wf_nop9 : (Instr.nop9 1 2 0).wellFormed = false := by decide
theorem test_wf_nopE_skp : (Instr.nopE 1 0x9E).wellFormed = false := by decide
theorem test_wf_nopE_sknp : (Instr.nopE 1 0xA1).wellFormed = false := by decide
theorem test_wf_nopF : (Instr.nopF 1 0x65).wellFormed = false := by decide

/-! ### Every constructor's decoding, by a word written from 30_encoding.md R54, bit by bit -/

theorem test_decode_family0 :
    decodeWord 0b0000000011100000 = .cls ∧ decodeWord 0b0000000011101110 = .ret ∧
    decodeWord 0b0000000100100011 = .sys 0x123 := by decide
theorem test_decode_family1 : decodeWord 0b0001101010111100 = .jp 0xABC := by decide
theorem test_decode_family2 : decodeWord 0b0010001100000100 = .call 0x304 := by decide
theorem test_decode_family3 : decodeWord 0b0011101000000101 = .seImm 0xA 0x05 := by decide
theorem test_decode_family4 : decodeWord 0b0100101100000110 = .sneImm 0xB 0x06 := by decide
theorem test_decode_family5 :
    decodeWord 0b0101000100100000 = .seReg 1 2 ∧ decodeWord 0b0101000100101000 = .nop5 1 2 8 := by decide
theorem test_decode_family6 : decodeWord 0b0110101001111011 = .ldImm 0xA 0x7B := by decide
theorem test_decode_family7 : decodeWord 0b0111000110000001 = .addImm 1 0x81 := by decide
theorem test_decode_family8_moves :
    decodeWord 0b1000000100100000 = .ldReg 1 2 ∧ decodeWord 0b1000000100100001 = .orReg 1 2 ∧
    decodeWord 0b1000000100100010 = .andReg 1 2 ∧ decodeWord 0b1000000100100011 = .xorReg 1 2 := by decide
theorem test_decode_family8_arithmetic :
    decodeWord 0b1000000100100100 = .addReg 1 2 ∧ decodeWord 0b1000000100100101 = .sub 1 2 ∧
    decodeWord 0b1000000100100110 = .shr 1 2 ∧ decodeWord 0b1000000100100111 = .subn 1 2 ∧
    decodeWord 0b1000000100101110 = .shl 1 2 ∧ decodeWord 0b1000000100101111 = .nop8 1 2 0xF := by decide
theorem test_decode_family9 :
    decodeWord 0b1001000100100000 = .sneReg 1 2 ∧ decodeWord 0b1001000100100001 = .nop9 1 2 1 := by decide
theorem test_decode_familyA : decodeWord 0b1010000100100011 = .ldI 0x123 := by decide
theorem test_decode_familyB : decodeWord 0b1011001100000000 = .jpV0 0x300 := by decide
theorem test_decode_familyC : decodeWord 0b1100000100001111 = .rnd 1 0x0F := by decide
theorem test_decode_familyD : decodeWord 0b1101000100100101 = .drw 1 2 5 := by decide
theorem test_decode_familyE :
    decodeWord 0b1110010110011110 = .skp 5 ∧ decodeWord 0b1110010110100001 = .sknp 5 ∧
    decodeWord 0b1110010110011111 = .nopE 5 0x9F := by decide
theorem test_decode_familyF_timers_keys :
    decodeWord 0b1111000100000111 = .ldVxDT 1 ∧ decodeWord 0b1111000100001010 = .ldVxK 1 ∧
    decodeWord 0b1111000100010101 = .ldDTVx 1 ∧ decodeWord 0b1111000100011000 = .ldSTVx 1 := by decide
theorem test_decode_familyF_index :
    decodeWord 0b1111000100011110 = .addI 1 ∧ decodeWord 0b1111000100101001 = .ldF 1 ∧
    decodeWord 0b1111000100110011 = .ldB 1 ∧ decodeWord 0b1111000101010101 = .storeRegs 1 ∧
    decodeWord 0b1111000101100101 = .loadRegs 1 ∧ decodeWord 0b1111000111111111 = .nopF 1 0xFF := by decide
theorem test_decode_bytes : decode [0xD1, 0x25, 0x77] = .ok (.drw 1 2 5, [0x77]) ∧ decode [0xD1] = .error .truncated := by
  decide
theorem test_decode_table_word : decodeTableWord 16 0xD123 = some (.drw 1 2 3) ∧ decodeTableWord 16 0x00E0 = some .cls := by
  decide

/-! ### Control (95_test_vectors.md V-CTRL, V-FETCH, W7, P6) -/

theorem test_sys : (ran 0 0 0x01E0 State.reset).map (fun t => (t.pc, t.dirty, t.result)) =
    some (0x202, false, some .completed) := by decide
theorem test_ret_pops : (ran 0 0 0x00EE ((State.reset.push 0x206))).map (fun t => (t.pc, t.sp, t.getS 0)) =
    some (0x206, 0, 0x206) := by decide
theorem test_ret_underflow : (ran 0 0 0x00EE State.reset).map (fun t => (t.halted, t.pc, t.sp)) =
    some (some (fatalAt200 .stackUnderflow 0 0x00EE), 0x202, 0) := by decide
theorem test_jp_odd : (ran 0 0 0x1201 State.reset).map State.pc = some 0x201 := by decide
theorem test_call_pushes : (ran 0 0 0x2300 State.reset).map (fun t => (t.pc, t.sp, t.getS 0)) =
    some (0x300, 1, 0x202) := by decide
theorem test_call_overflow : (ran 0 0 0x2300 { State.reset with sp := 16 }).map (fun t => (t.halted, t.pc, t.sp)) =
    some (some (fatalAt200 .stackOverflow 16 0x2300), 0x202, 16) := by decide
theorem test_seImm : (ran 0 0 0x3005 (with01 5 0)).map State.pc = some 0x204 ∧
    (ran 0 0 0x3005 (with01 4 0)).map State.pc = some 0x202 := by decide
theorem test_sneImm : (ran 0 0 0x4005 (with01 5 0)).map State.pc = some 0x202 ∧
    (ran 0 0 0x4005 (with01 4 0)).map State.pc = some 0x204 := by decide
theorem test_seReg : (ran 0 0 0x5010 (with01 7 7)).map State.pc = some 0x204 := by decide
theorem test_nop5 : (ran 0 0 0x5011 (with01 7 7)).map State.pc = some 0x202 := by decide
theorem test_sneReg : (ran 0 0 0x9010 (with01 7 8)).map State.pc = some 0x204 := by decide
theorem test_nop9 : (ran 0 0 0x9011 (with01 7 8)).map State.pc = some 0x202 := by decide
theorem test_jpV0_beyond_12_bits : (ran 0 0 0xBFFF (with01 0xFF 0)).map State.pc = some 0x10FE := by decide
theorem test_nop8 : (ran 0 0 0x8018 (with01 7 8)).map flagged = some (7, 0, 0x202) := by decide
theorem test_nopE_checks_no_key : (ran 0 0 0xE09F (with01 0xFF 0)).map (fun t => (t.pc, t.halted)) = some (0x202, none) := by
  decide
theorem test_nopF : (ran 0 0 0xF0FF (with01 7 8)).map flagged = some (7, 0, 0x202) := by decide
theorem test_fetch_at_last_word : (ran 0 0 0x00E0 (State.reset.setPc 0xFFE)).map (fun t => (t.pc, t.dirty)) =
    some (0x1000, true) := by decide
theorem test_fetch_at_4095 : (ran 0 0 0 (State.reset.setPc 0xFFF)).map (fun t => (t.halted, t.pc)) =
    some (some { kind := .memoryOutOfRange, info := 0x1000, addr := 0xFFF, word := none }, 0xFFF) := by decide

/-! ### Arithmetic and logic (95_test_vectors.md V-ALU, V-LOGIC) -/

theorem test_ldImm : (ran 0 0 0x6A7B State.reset).map (fun t => t.getV 0xA) = some 0x7B := by decide
theorem test_addImm_no_flag : (ran 0 0 0x7002 ((with01 0xFF 0).setV VF 0x55)).map flagged = some (0x01, 0x55, 0x202) := by
  decide
theorem test_ldReg : (ran 0 0 0x8010 (with01 0 0x77)).map flagged = some (0x77, 0, 0x202) := by decide
theorem test_orReg : (ran 0 0 0x8011 ((with01 0x0C 0x0A).setV VF 3)).map flagged = some (0x0E, 3, 0x202) := by decide
theorem test_andReg : (ran 0 0 0x8012 ((with01 0x0C 0x0A).setV VF 3)).map flagged = some (0x08, 3, 0x202) := by decide
theorem test_xorReg : (ran 0 0 0x8013 ((with01 0x0C 0x0A).setV VF 3)).map flagged = some (0x06, 3, 0x202) := by decide
theorem test_addReg_carry : (ran 0 0 0x8014 (with01 0xFF 0x01)).map flagged = some (0x00, 1, 0x202) := by decide
theorem test_addReg_result_wins : (ran 0 0 0x8F14 ((with01 0 0x01).setV VF 0xFF)).map flagged = some (0, 0, 0x202) := by
  decide
theorem test_sub_equal_is_strict : (ran 0 0 0x8015 (with01 5 5)).map flagged = some (0, 0, 0x202) := by decide
theorem test_sub_old_vf : (ran 0 0 0x80F5 ((with01 0x10 0).setV VF 1)).map flagged = some (0x0F, 1, 0x202) := by decide
theorem test_shr : (ran 0 0 0x8016 (with01 0x03 0x80)).map flagged = some (0x01, 1, 0x202) := by decide
theorem test_shr_vy : (ran 0 0 0x8016 ((withConfig { Config.default with shiftSource := .vy }).setV 1 0x03)).map flagged =
    some (0x01, 1, 0x202) := by decide
theorem test_subn : (ran 0 0 0x8017 (with01 3 5)).map flagged = some (2, 1, 0x202) := by decide
theorem test_subn_borrow : (ran 0 0 0x8017 (with01 5 3)).map flagged = some (0xFE, 0, 0x202) := by decide
theorem test_shl : (ran 0 0 0x801E (with01 0x81 0)).map flagged = some (0x02, 1, 0x202) := by decide
theorem test_shl_vy : (ran 0 0 0x801E ((withConfig { Config.default with shiftSource := .vy }).setV 1 0x81)).map flagged =
    some (0x02, 1, 0x202) := by decide
theorem test_rnd : (ran 0 0xAB 0xC00F State.reset).map flagged = some (0x0B, 0, 0x202) := by decide

/-! ### Index register and memory (95_test_vectors.md V-I, V-MEM) -/

theorem test_ldI : (ran 0 0 0xA123 State.reset).map State.ireg = some 0x123 := by decide
theorem test_addI_wraps : (ran 0 0 0xF01E (((with01 1 0).setI 0xFFFF).setV VF 0x33)).map (fun t => (t.ireg, t.getV VF)) =
    some (0, 0x33) := by decide
theorem test_ldF_no_mask : (ran 0 0 0xF029 (with01 0xFF 0)).map State.ireg = some 0x4FB := by decide
theorem test_ldF_observed :
    (ran 0 0 0xF029 ((withConfig { Config.default with fontStride := .observed }).setV 0 0x0F)).map State.ireg =
      some 0x00F := by decide
theorem test_ldB : (ran 0 0 0xF033 ((with01 0x7B 0).setI 0x300)).map
    (fun t => (t.byteAt 0x300, t.byteAt 0x301, t.byteAt 0x302, t.ireg)) = some (1, 2, 3, 0x300) := by decide
theorem test_ldB_range : (ran 0 0 0xF033 ((with01 1 0).setI 0xFFE)).map
    (fun t => (t.halted, t.byteAt 0xFFE, t.byteAt 0xFFF)) =
      some (some (fatalAt200 .memoryOutOfRange 0x1000 0xF033), 0, 0) := by decide
theorem test_storeRegs_last_byte : (ran 0 0 0xF055 ((with01 9 0).setI 0xFFF)).map (fun t => (t.byteAt 0xFFF, t.halted)) =
    some (9, none) := by decide
theorem test_storeRegs_range : (ran 0 0 0xF155 ((with01 1 2).setI 0xFFF)).map (fun t => (t.byteAt 0xFFF, t.halted)) =
    some (0, some (fatalAt200 .memoryOutOfRange 0x1000 0xF155)) := by decide
theorem test_loadRegs : (ran 0 0 0xF165 ((State.reset.setI 0x400).store 0x400 [1, 2, 3])).map
    (fun t => (t.getV 0, t.getV 1, t.getV 2, t.ireg)) = some (1, 2, 0, 0x400) := by decide
theorem test_loadRegs_range : (ran 0 0 0xF065 (State.reset.setI 0xFFFF)).map State.halted =
    some (some (fatalAt200 .memoryOutOfRange 0xFFFF 0xF065)) := by decide

/-! ### Display (95_test_vectors.md V-DISP, W5) -/

theorem test_cls : (ran 0 0 0x00E0 (State.reset.setDisplay (Vector.replicate 32 5))).map
    (fun t => (t.display, t.dirty)) = some (Vector.replicate 32 0, true) := by decide
theorem test_drw_wraps : (ran 0 0 0xD018 (((with01 60 30).setI 0x300).store 0x300 (List.replicate 8 0xFF))).map
    (fun t => (t.display.toList, t.getV VF, t.dirty)) =
      some (List.replicate 6 0xF00000000000000F ++ List.replicate 24 0 ++ List.replicate 2 0xF00000000000000F, 0, true) := by
  decide
theorem test_drw_vf_is_coordinate : (ran 0 0 0xDFF1 (((State.reset.setV VF 0x3F).setI 0x300).store 0x300 [0xC0])).map
    (fun t => (t.display.toList.getD 31 0, t.getV VF)) = some (0x8000000000000001, 0) := by decide

/-! ### Keys and timers (95_test_vectors.md V-KEY, V-TIMER, W9) -/

theorem test_skp : (ran 0x0020 0 0xE09E (with01 5 0)).map State.pc = some 0x204 ∧
    (ran 0x0010 0 0xE09E (with01 5 0)).map State.pc = some 0x202 := by decide
theorem test_skp_invalid : (ran 0 0 0xE09E (with01 0x10 0)).map State.halted =
    some (some (fatalAt200 .invalidKeyIndex 0x10 0xE09E)) := by decide
theorem test_sknp : (ran 0x0010 0 0xE0A1 (with01 5 0)).map State.pc = some 0x204 ∧
    (ran 0x0020 0 0xE0A1 (with01 5 0)).map State.pc = some 0x202 := by decide
theorem test_sknp_invalid : (ran 0 0 0xE0A1 (with01 0xFF 0)).map State.halted =
    some (some (fatalAt200 .invalidKeyIndex 0xFF 0xE0A1)) := by decide
theorem test_ldVxK_waits : (ran 0 0 0xF00A (with01 7 0)).map (fun t => (t.getV 0, t.pc, t.result)) =
    some (7, 0x200, some .needsInput) := by decide
theorem test_ldVxK_least_key : (ran 0x0028 0 0xF00A (with01 7 0)).map (fun t => (t.getV 0, t.pc, t.result)) =
    some (3, 0x202, some .completed) := by decide
theorem test_ldVxDT : (ran 0 0 0xF107 (State.reset.setDT 0x2A)).map (fun t => t.getV 1) = some 0x2A := by decide
theorem test_ldDTVx : (ran 0 0 0xF015 (with01 5 0)).map State.dt = some 5 := by decide
theorem test_ldSTVx : (ran 0 0 0xF018 (with01 5 0)).map (fun t => (t.st, t.soundActive)) = some (5, true) := by decide
theorem test_tick_modes :
    [(0 : Byte), 1, 2, 0xFF].map (tickTimer .saturate) = [0, 0, 1, 0xFE] ∧
    [(0 : Byte), 1, 2, 0xFF].map (tickTimer .wrapFromZero) = [0xFF, 0, 1, 0xFE] ∧
    [(0 : Byte), 1, 2, 0xFF].map (tickTimer .reloadOnReachZero) = [0xFF, 0xFF, 1, 0xFE] := by decide

/-! ### Reset and the host's loop (95_test_vectors.md V-RESET; 40_pipeline.md R66) -/

theorem test_reset_font : (List.range 5).map State.reset.byteAt = [0xF0, 0x90, 0x90, 0x90, 0xF0] ∧
    (List.range 5).map (fun k => State.reset.byteAt (0x4B + k)) = [0xF0, 0x80, 0xF0, 0x80, 0x80] ∧
    State.reset.byteAt 0x50 = 0 := by decide
theorem test_reset_image :
    let s := State.resetWith Config.default Config.font [0x61, 0x00, 0x71, 0x01, 0x12, 0x02]
    (List.range 7).map (fun k => s.byteAt (0x200 + k)) = [0x61, 0x00, 0x71, 0x01, 0x12, 0x02, 0x00] := by decide
theorem test_step_ticks_and_presents :
    (match step ({ State.reset with inputs := [{ quiet with ticks := 2, present := true }], dirty := true,
                                    dt := 3, st := 0 }.withFetchWord 16 0x6123) with
      | .next t => some (t.getV 1, t.dt, t.st, t.dirty, t.inputs.length)
      | _ => none) = some (0x23, 1, 0, false, 0) := by decide
theorem test_word_runs_first_after_reset :
    (match step (State.reset.withFetchWord 16 0x6123) with | .next t => some (t.getV 1, t.pc) | _ => none) =
      some (0x23, 0x202) := by decide

/-! ### Witnesses: a concrete state and operands that meet the hypotheses of each statement that has any, one for each clause, at
the edges of its range -/

/-- The reset state with a word at 0x200 and one quiet host input. -/
def at200 (w : Nat) : State := { State.reset.withFetchWord 16 w with inputs := [quiet] }

/-- A machine that hit a stack underflow. -/
def halted : State := State.reset.raiseFatal .stackUnderflow 0

theorem test_witness_DecodeOfEncodeIsIdentity :
    (Instr.drw 1 2 3).wellFormed = true ∧ (Instr.sys 0xFFF).wellFormed = true ∧ (Instr.nop8 0 15 8).wellFormed = true ∧
    (Instr.nopF 15 0xFF).wellFormed = true := by decide

theorem test_witness_StepRunsDecodedInstruction :
    let s := ((State.reset.setPc 0xFFE).withFetchWord 16 0xD123)
    let i := Instr.drw 1 2 3
    s.halted = none ∧ s.pc.toNat + 2 = 4096 ∧ i.wellFormed = true ∧ s.byteAt s.pc.toNat = highByte (encode i) ∧
      s.byteAt (s.pc.toNat + 1) = lowByte (encode i) := by decide

theorem test_witness_FetchReadsBigEndianWordAtAnyPc :
    (State.reset.setPc 0x201).pc.toNat + 2 ≤ 4096 ∧ (State.reset.setPc 0xFFE).pc.toNat + 2 ≤ 4096 := by decide

theorem test_witness_FetchBeyondMemoryIsFatal :
    State.reset.halted = none ∧ 4095 = (State.reset.setPc 0xFFF).pc.toNat ∧ 4095 ≤ (State.reset.setPc 0x1000).pc.toNat ∧
    4095 ≤ (State.reset.setPc 0xFFFF).pc.toNat := by decide

theorem test_witness_HaltedMachineIsStuck :
    halted.halted = some { kind := .stackUnderflow, info := 0, addr := 0, word := none } := by decide

theorem test_witness_RunningMachineAlwaysSteps : State.reset.halted = none ∧ halted.halted ≠ none := by decide

theorem test_witness_StepEndsWithOneOfThreeResults :
    (ran 0 0 0x6123 State.reset).map State.result = some (some .completed) ∧
    (ran 0 0 0xF10A State.reset).map State.result = some (some .needsInput) ∧
    (ran 0 0 0x00EE State.reset).map State.result = some (some (.fatal (fatalAt200 .stackUnderflow 0 0x00EE))) := by decide

theorem test_witness_StepKeepsInvariant : Inv (at200 0x00EE) ∧ ∃ t, step (at200 0x00EE) = .next t ∧ t.halted ≠ none :=
  ⟨{ memory := rfl, stack := Nat.zero_le _, halted := fun _ => ⟨nofun, nofun⟩, record := nofun }, _, rfl, by decide⟩

theorem test_witness_ResetLoadsFontAndImage :
    0 < min [(0x61 : Byte)].length 3584 ∧ 3583 < min (List.replicate 3585 (0xAA : Byte)).length 3584 ∧
    79 < 80 ∧ (0x200 ≤ 0x200 ∧ 0x200 < 4096) ∧ (0x200 ≤ 0xFFF ∧ 0xFFF < 4096) := by
  simp only [List.length_cons, List.length_nil, List.length_replicate]; decide

theorem test_witness_ResetValuesTheSpecDecides :
    (80 < 4096 ∧ 80 ≤ 80 ∧ 80 < 0x200) ∧ (0x1FF < 4096 ∧ 80 ≤ 0x1FF ∧ 0x1FF < 0x200) ∧
    (0x201 < 4096 ∧ 80 ≤ 0x201 ∧ 0x200 + [(0x61 : Byte)].length ≤ 0x201) ∧ (4095 < 4096 ∧ 0x200 ≤ 4095) := by decide

theorem test_witness_HostPhaseTicksThenPresents : State.reset.halted = none ∧ halted.halted ≠ none := by decide

theorem test_witness_StepConsumesOneInputAndKeepsConfig : ∃ t, step (at200 0x6123) = .next t := ⟨_, rfl⟩

theorem test_witness_FatalStepWritesNothingElse :
    (∃ t, stepWith 0 0 (at200 0x00EE) = .next t ∧ t.halted = some (fatalAt200 .stackUnderflow 0 0x00EE)) ∧
    (∃ t, stepWith 0 0 (State.reset.setPc 0xFFF) = .next t ∧
      t.halted = some { kind := .memoryOutOfRange, info := 0x1000, addr := 0xFFF, word := none }) :=
  ⟨⟨_, rfl, by decide⟩, ⟨_, rfl, by decide⟩⟩

theorem test_witness_SysAndUnknownOpcodesDoNothing :
    (at200 0x0123).halted = none ∧ (at200 0x0123).pc.toNat + 2 ≤ 4096 ∧
    [0x0123, 0x5123, 0x8128, 0x9123, 0xE100, 0xF1FF].map (fun w => decodeWord (loadWord (at200 w).mem 0x200)) =
      [Instr.sys 0x123, .nop5 1 2 3, .nop8 1 2 8, .nop9 1 2 3, .nopE 1 0x00, .nopF 1 0xFF] := by decide

theorem test_witness_RetPopsOrUnderflows :
    (0 < (State.reset.push 0x206).sp ∧ (State.reset.push 0x206).sp ≤ 16) ∧
    (0 < ({ State.reset with sp := 16 } : State).sp ∧ ({ State.reset with sp := 16 } : State).sp ≤ 16) ∧
    State.reset.sp = 0 := by decide

theorem test_witness_CallPushesOrOverflows :
    State.reset.sp < 16 ∧ ({ State.reset with sp := 15 } : State).sp < 16 ∧ ({ State.reset with sp := 16 } : State).sp = 16 := by
  decide

theorem test_witness_CallThenRetReturns :
    ∃ t u, State.reset.sp < 16 ∧ exec (.call 0x300) State.reset = .next t ∧ u = t.setV 0 1 ∧ u.sp = t.sp ∧ u.stack = t.stack :=
  ⟨_, _, by decide, rfl, rfl, rfl, rfl⟩

theorem test_witness_OnlyCallAndRetMoveTheStack :
    (∃ t, exec (.call 0x300) State.reset = .next t ∧ t.sp ≠ State.reset.sp) ∧
    (∃ t, exec (.call 0x300) { State.reset with sp := 16 } = .next t ∧ t.halted ≠ none) ∧
    (∃ t, exec .ret (State.reset.push 0x206) = .next t ∧ t.sp = 0) ∧
    (∃ t, exec .ret State.reset = .next t ∧ t.halted ≠ none) ∧ (∃ t, exec .cls State.reset = .next t) :=
  ⟨⟨_, rfl, by decide⟩, ⟨_, rfl, by decide⟩, ⟨_, rfl, by decide⟩, ⟨_, rfl, by decide⟩, ⟨_, rfl⟩⟩

theorem test_witness_flag_not_destination : (0 : Reg) ≠ VF ∧ (14 : Reg) ≠ VF := by decide

theorem test_witness_ShiftsSetShiftedOutBit :
    (State.reset.config.shiftSource = .vx ∧ (5 : Byte) = (with01 5 6).getV 0) ∧
    ((withConfig { Config.default with shiftSource := .vy }).config.shiftSource = .vy ∧
      (0 : Byte) = (withConfig { Config.default with shiftSource := .vy }).getV 1) := by decide

theorem test_witness_OnlyNamedRegistersChange :
    (∃ t, exec (.ldImm 3 7) State.reset = .next t ∧ t.getV 3 ≠ State.reset.getV 3) ∧
    (∃ t, exec (.addReg 0 1) (with01 0xFF 1) = .next t ∧ t.getV VF ≠ (with01 0xFF 1).getV VF) :=
  ⟨⟨_, rfl, by decide⟩, ⟨_, rfl, by decide⟩⟩

theorem test_witness_NoImplicitReadOfVF :
    VF ∉ readsRegs (.addReg 0 1) ∧ VF ∉ readsRegs (.storeRegs 14) ∧ (∃ t, exec (.addReg 0 1) (with01 0xFF 1) = .next t) :=
  ⟨by decide, by decide, _, rfl⟩

theorem test_witness_IndexArithmetic :
    State.reset.config.fontStride = .design ∧
    (withConfig { Config.default with fontStride := .observed }).config.fontStride = .observed := by decide

theorem test_witness_transfers_in_range :
    State.reset.mem.wf = true ∧ (State.reset.setI 0xFFD).iAddr + 3 ≤ 4096 ∧
    (State.reset.setI 0xFFF).iAddr + ((0 : Reg).val + 1) ≤ 4096 ∧ (State.reset.setI 0xFF0).iAddr + ((15 : Reg).val + 1) ≤ 4096 ∧
    (0 : Reg) ≤ 15 ∧ (14 : Reg) < 15 := by decide

theorem test_witness_OutOfRangeTransfersAreFatal :
    4096 < (State.reset.setI 0xFFE).iAddr + 3 ∧ 4096 < (State.reset.setI 0x1000).iAddr + ((0 : Reg).val + 1) ∧
    4096 < (State.reset.setI 0xFFFF).iAddr + ((15 : Reg).val + 1) ∧
    ((1 : Nibble) ≠ 0 ∧ 4096 < (State.reset.setI 0x1000).iAddr + (1 : Nibble).toNat) := by decide

theorem test_witness_StoreThenLoadRestoresRegisters :
    let s := (with01 1 2).setI 0x400
    ∃ t u, s.mem.wf = true ∧ s.iAddr + ((1 : Reg).val + 1) ≤ 4096 ∧ exec (.storeRegs 1) s = .next t ∧ u = t.setV 0 9 ∧
      u.ireg = t.ireg ∧ ∀ a, u.byteAt a = t.byteAt a :=
  ⟨_, _, by decide, by decide, rfl, rfl, rfl, fun _ => rfl⟩

theorem test_witness_OnlyStoresWriteMemoryAndLoadsWriteI :
    (∃ t, exec (.drw 0 1 5) State.reset = .next t) ∧ (∀ x, Instr.drw 0 1 5 ≠ .ldB x) ∧ (∀ x, Instr.drw 0 1 5 ≠ .storeRegs x) ∧
    (∀ n, Instr.drw 0 1 5 ≠ .ldI n) ∧ (∀ x, Instr.drw 0 1 5 ≠ .addI x) ∧ (∀ x, Instr.drw 0 1 5 ≠ .ldF x) :=
  ⟨⟨_, rfl⟩, nofun, nofun, nofun, nofun, nofun⟩

theorem test_witness_ReadsSeeTheLastWrite :
    State.reset.mem.wf = true ∧ 0xFFE + [(1 : Byte), 2].length ≤ 4096 ∧ 1 < [(1 : Byte), 2].length := by decide

theorem test_witness_CanonicalMemoriesAreUnique :
    let m := (([] : Memory).set 5 1).set 3 2
    let m' := (([] : Memory).set 3 2).set 5 1
    Memory.wf m = true ∧ Memory.wf m' = true ∧ m = m' ∧ ∀ a, Memory.get m a = Memory.get m' a := ⟨rfl, rfl, rfl, fun _ => rfl⟩

/-- Both stores, over both bytes of the next instruction, over its first alone, over its second alone. -/
theorem test_witness_StoredInstructionRunsNext :
    let s := fun a : Word => (with01 0x12 0x34).setI a
    (s 0x200).mem.wf = true ∧ (s 0x200).halted = none ∧ (s 0x200).pc.toNat + 2 ≤ 4096 ∧
    [0x200, 0x1FF, 0x201].all (fun a => decide ((s a).iAddr + ((s a).regsUpTo 1).length ≤ 4096)) = true ∧
    (s 0x1FE).iAddr + (bcdDigits ((s 0x1FE).getV 0)).length ≤ 4096 ∧
    (∀ a, ∃ t, exec (.storeRegs 1) (s a) = .next t) ∧ (∀ a, ∃ t, exec (.ldB 0) (s a) = .next t) ∧
    (∃ t, exec (.storeRegs 1) (s 0x200) = .next t ∧ t.halted = none ∧ t.pc = 0x200) ∧
    (s 0xFFE).iAddr + ((s 0xFFE).regsUpTo 1).length = 4096 :=
  ⟨rfl, rfl, by decide, by decide, by decide, fun _ => ⟨_, rfl⟩, fun _ => ⟨_, rfl⟩, ⟨_, rfl, rfl, rfl⟩, by decide⟩

/-- Fx55 over the first byte of the next instruction alone: the next step runs V1's value and the byte that was there. -/
theorem test_store_reaches_half_of_next_word :
    ((ran 0 0 0xF155 (((with01 0 0x65).setI 0x201).store 0x203 [0x77])).bind fun t =>
      match stepWith 0 0 t with | .next u => some (u.getV 5, u.pc) | _ => none) = some (0x77, 0x204) := by decide

theorem test_witness_draw_in_range :
    ((0 : Nibble) = 0 ∧ (State.reset.setI 0xFFFF).iAddr = 0xFFFF) ∧ (State.reset.setI 0xFF1).iAddr + (15 : Nibble).toNat ≤ 4096 := by
  decide

theorem test_witness_DrawTwiceRestoresTheDisplay :
    (0 : Reg) ≠ VF ∧ (14 : Reg) ≠ VF ∧ State.reset.iAddr + (5 : Nibble).toNat ≤ 4096 ∧
      (∃ t, exec (.drw 0 14 5) State.reset = .next t ∧ t.getV VF = 0) ∧
      (∃ t, exec (.drw VF VF 5) State.reset = .next t ∧ t.getV VF = State.reset.getV VF) ∧
      (∃ t, exec (.drw VF 0 0) (State.reset.setI 0xFFFF) = .next t ∧ t.getV VF = State.reset.getV VF) ∧
      0 < (5 : Nibble).toNat ∧ 0 < 8 ∧ (State.reset.byteAt State.reset.iAddr).getLsbD (7 - 0) = true :=
  ⟨by decide, by decide, by decide, ⟨_, rfl, by decide⟩, ⟨_, rfl, by decide⟩, ⟨_, rfl, by decide⟩, by decide, by decide, by decide⟩

theorem test_witness_SecondDrawAlwaysCollides :
    (0 : Reg) ≠ VF ∧ (14 : Reg) ≠ VF ∧ State.reset.iAddr + (5 : Nibble).toNat ≤ 4096 ∧
      (∃ t u, exec (.drw 0 14 5) State.reset = .next t ∧ exec (.drw 0 14 5) t = .next u) ∧
      0 < (5 : Nibble).toNat ∧ 7 < 8 ∧ (State.reset.byteAt State.reset.iAddr).getLsbD 7 = true :=
  ⟨by decide, by decide, by decide, ⟨_, _, rfl, rfl⟩, by decide, by decide, by decide⟩

/-- The counterexample to SecondDrawAlwaysCollides: every pixel lit, so the first draw clears all its targets. -/
theorem test_second_draw_from_lit_display :
    ((ran 0 0 0xD015 { State.reset with display := Vector.replicate 32 (BitVec.allOnes 64) }).bind
      (fun t => (ran 0 0 0xD015 t))).map (fun u => u.getV VF) = some 0 := by decide

theorem test_witness_OnlyClearAndDrawTouchTheDisplay :
    Instr.ldI 5 ≠ .cls ∧ (∀ x y n, Instr.ldI 5 ≠ .drw x y n) ∧ ∃ t, exec (.ldI 5) State.reset = .next t :=
  ⟨nofun, nofun, _, rfl⟩

theorem test_witness_KeySkips :
    ((with01 0 0).getV 0).toNat ≤ 0xF ∧ ((with01 0xF 0).getV 0).toNat ≤ 0xF ∧ 0xF < ((with01 0x10 0).getV 0).toNat ∧
    0xF < ((with01 0xFF 0).getV 0).toNat := by decide

theorem test_witness_KeyWaitTakesLeastKeyOrRetries :
    State.reset.ctx.keys = 0 ∧ (0x8001 : Word).getLsbD 0 = true ∧
    (15 < 16 ∧ (0x8000 : Word).getLsbD 15 = true ∧ ∀ j, j < 15 → (0x8000 : Word).getLsbD j = false) := by decide

theorem test_witness_OnlyTimerInstructionsUseTimers :
    (∃ t, exec .cls State.reset = .next t) ∧ (∀ x, Instr.cls ≠ .ldDTVx x) ∧ (∀ x, Instr.cls ≠ .ldSTVx x) ∧
    (∀ x, Instr.cls ≠ .ldVxDT x) := ⟨⟨_, rfl⟩, nofun, nofun, nofun⟩

theorem test_witness_TickFollowsUnderflowMode :
    State.reset.halted = none ∧ State.reset.config.timerUnderflow = .saturate ∧
    (withConfig { Config.default with timerUnderflow := .wrapFromZero }).config.timerUnderflow = .wrapFromZero ∧
    (withConfig { Config.default with timerUnderflow := .reloadOnReachZero }).config.timerUnderflow = .reloadOnReachZero := by
  decide

theorem test_witness_SaturatingTimerReachesZeroAndStays :
    State.reset.config.timerUnderflow = .saturate ∧ (with01 5 0).getV 0 = 5 ∧ 5 ≤ 5 := by decide

theorem test_witness_InputsReachOnlyTheirInstructions :
    (∃ t, exec .cls State.reset = .next t) ∧ (∀ x, Instr.cls ≠ .skp x) ∧ (∀ x, Instr.cls ≠ .sknp x) ∧
    (∀ x, Instr.cls ≠ .ldVxK x) ∧ (∀ x nn, Instr.cls ≠ .rnd x nn) := ⟨⟨_, rfl⟩, nofun, nofun, nofun, nofun⟩

end Sys2Proof.Tests
end

