-- ==== Sys2Proof/Proofs/Stack.lean ====
section
/-! PROOFS. The frame of the return stack and of sp: what 00EE and 2nnn do to them, and that no other instruction touches them
(10_state.md R15, R16). -/

namespace Sys2Proof.Machine

variable (s : State)

/-! ### The composite operations leave the return stack and sp -/

@[simp] theorem putCanvas_stack (k : Canvas) : (s.putCanvas k).stack = s.stack := rfl
@[simp] theorem putCanvas_sp (k : Canvas) : (s.putCanvas k).sp = s.sp := rfl

@[simp] theorem keyTest_stack (x : Reg) (down : Bool) : (s.keyTest x down).stack = s.stack := by
  rcases keyTest_cases s x down with ⟨-, h⟩ | ⟨-, h⟩ <;> simp [h]

@[simp] theorem keyTest_sp (x : Reg) (down : Bool) : (s.keyTest x down).sp = s.sp := by
  rcases keyTest_cases s x down with ⟨-, h⟩ | ⟨-, h⟩ <;> simp [h]

@[simp] theorem waitKey_stack (x : Reg) : (s.waitKey x).stack = s.stack := by
  rcases waitKey_cases s x with ⟨k, -, h⟩ | ⟨-, h⟩ <;> simp [h]

@[simp] theorem waitKey_sp (x : Reg) : (s.waitKey x).sp = s.sp := by
  rcases waitKey_cases s x with ⟨k, -, h⟩ | ⟨-, h⟩ <;> simp [h]

/-- A guarded effect that leaves the return stack leaves it in the fatal case too. -/
theorem guardRange_stack {base len : Nat} {done : State} (hdone : done.stack = s.stack) :
    (s.guardRange base len done).stack = s.stack := by
  rcases guardRange_cases s base len done with ⟨-, h⟩ | ⟨-, -, h⟩ <;> simp [h, hdone]

theorem guardRange_sp {base len : Nat} {done : State} (hdone : done.sp = s.sp) :
    (s.guardRange base len done).sp = s.sp := by
  rcases guardRange_cases s base len done with ⟨-, h⟩ | ⟨-, -, h⟩ <;> simp [h, hdone]

/-! ### What an instruction does to the return stack and sp -/

variable {s} {i : Instr} {t : State}

/-- Every instruction but 2nnn and 00EE leaves both, its fatal cases included. -/
theorem exec_leaves_stack (h : exec i s = .next t) (hcall : ∀ nnn, i ≠ .call nnn) (hret : i ≠ .ret) :
    t.stack = s.stack ∧ t.sp = s.sp := by
  cases i
  case call nnn => exact absurd rfl (hcall nnn)
  case ret => exact absurd rfl hret
  case drw | ldB | storeRegs | loadRegs =>
    obtain rfl := Host.Outcome.next.inj h
    exact ⟨guardRange_stack s (by simp), guardRange_sp s (by simp)⟩
  all_goals
    obtain rfl := Host.Outcome.next.inj h
    simp

/-- 00EE takes one from sp, or raises StackUnderflow where sp is 0; it writes no entry (41_control.md R71). -/
theorem exec_ret_stack (h : exec .ret s = .next t) :
    t.stack = s.stack ∧ (0 < s.sp → t.sp = s.sp - 1) ∧
      (s.sp = 0 → t.sp = 0 ∧ t.halted.map FatalRecord.kind = some .stackUnderflow) := by
  obtain rfl := Host.Outcome.next.inj h
  by_cases hsp : s.sp = 0
  · simp [hsp]
  · simp [hsp]

/-- 2nnn adds one to sp, or raises StackOverflow where sp is 16 (41_control.md R73). -/
theorem exec_call_sp {nnn : Addr12} (h : exec (.call nnn) s = .next t) :
    (s.sp < 16 → t.sp = s.sp + 1) ∧
      (s.sp = 16 → t.sp = 16 ∧ t.halted.map FatalRecord.kind = some .stackOverflow) := by
  obtain rfl := Host.Outcome.next.inj h
  by_cases hsp : s.sp < 16
  · simp [hsp, Nat.ne_of_lt hsp]
  · simp [hsp]

/-- The bound of R16: sp stays in 0..16. -/
theorem exec_sp_le (h : exec i s = .next t) (hsp : s.sp ≤ 16) : t.sp ≤ 16 := by
  by_cases hret : i = .ret
  · subst hret
    obtain ⟨-, hpop, hunder⟩ := exec_ret_stack h
    omega
  by_cases hcall : ∃ nnn, i = .call nnn
  · obtain ⟨nnn, rfl⟩ := hcall
    obtain ⟨hpush, hover⟩ := exec_call_sp h
    omega
  · exact (exec_leaves_stack h (not_exists.mp hcall) hret).2.trans_le hsp

/-- Settles O28: 2nnn and 00EE by their own two lemmas, every other instruction by the frame `exec_leaves_stack`. -/
theorem onlyCallAndRetMoveTheStack : Obligations.OnlyCallAndRetMoveTheStack := by
  unfold Obligations.OnlyCallAndRetMoveTheStack
  intro i s t h
  refine ⟨exec_sp_le h, fun hcall => ⟨?_, fun hret => (exec_leaves_stack h hcall hret).2⟩, ?_, ?_⟩
  · by_cases hret : i = .ret
    · subst hret; exact (exec_ret_stack h).1
    · exact (exec_leaves_stack h hcall hret).1
  · rintro nnn rfl; exact exec_call_sp h
  · rintro rfl; exact exec_ret_stack h

end Sys2Proof.Machine
end

