-- ==== Sys2Proof/Proofs/Memory.lean ====
section
/-! PROOFS. The frame of memory and of I: which instructions write them (20_memory.md R37, 10_state.md R14); and the stores seen by
a later fetch (20_memory.md R42, R45). -/

namespace Sys2Proof.Machine

variable (s : State)

/-! ### What the shared operations keep, for any view of the state their two outcomes keep -/

section
variable {α : Type} (f : State → α)

theorem guardRange_keeps {base len : Nat} {done : State} (hfatal : ∀ k n, f (s.raiseFatal k n) = f s)
    (hdone : f done = f s) : f (s.guardRange base len done) = f s := by
  rcases guardRange_cases s base len done with ⟨-, h⟩ | ⟨-, -, h⟩
  · rw [h, hdone]
  · rw [h, hfatal]

theorem keyTest_keeps (x : Reg) (down : Bool) (hfatal : ∀ k n, f (s.raiseFatal k n) = f s)
    (hskip : ∀ c, f (s.skipIf c) = f s) : f (s.keyTest x down) = f s := by
  rcases keyTest_cases s x down with ⟨-, h⟩ | ⟨-, h⟩
  · rw [h, hfatal]
  · rw [h, hskip]

theorem waitKey_keeps (x : Reg) (hset : ∀ b, f (s.setV x b) = f s)
    (hretry : f ((s.setPc (s.pc - 2)).setResult .needsInput) = f s) : f (s.waitKey x) = f s := by
  rcases waitKey_cases s x with ⟨k, -, h⟩ | ⟨-, h⟩
  · rw [h, hset]
  · rw [h, hretry]

end

/-! ### Memory and I under the composite operations -/

@[simp] theorem putCanvas_mem (k : Canvas) : (s.putCanvas k).mem = s.mem := rfl
@[simp] theorem putCanvas_ireg (k : Canvas) : (s.putCanvas k).ireg = s.ireg := rfl

@[simp] theorem keyTest_mem (x : Reg) (down : Bool) : (s.keyTest x down).mem = s.mem :=
  keyTest_keeps s State.mem x down (raiseFatal_mem s) (skipIf_mem s)

@[simp] theorem keyTest_ireg (x : Reg) (down : Bool) : (s.keyTest x down).ireg = s.ireg :=
  keyTest_keeps s State.ireg x down (raiseFatal_ireg s) (skipIf_ireg s)

@[simp] theorem waitKey_mem (x : Reg) : (s.waitKey x).mem = s.mem :=
  waitKey_keeps s State.mem x (setV_mem s x) rfl

@[simp] theorem waitKey_ireg (x : Reg) : (s.waitKey x).ireg = s.ireg :=
  waitKey_keeps s State.ireg x (setV_ireg s x) rfl

/-! ### What an instruction does to memory and I -/

section
variable {s} {i : Instr} {t : State}

/-- Every instruction but Fx33 and Fx55 leaves memory, its fatal cases included. -/
theorem exec_leaves_mem (h : exec i s = .next t) (hbcd : ∀ x, i ≠ .ldB x) (hstore : ∀ x, i ≠ .storeRegs x) :
    t.mem = s.mem := by
  cases i
  case ldB x => exact absurd rfl (hbcd x)
  case storeRegs x => exact absurd rfl (hstore x)
  case drw | loadRegs =>
    obtain rfl := Host.Outcome.next.inj h
    exact guardRange_keeps s State.mem (raiseFatal_mem s) (by simp)
  case ret | call =>
    obtain rfl := Host.Outcome.next.inj h
    split <;> simp
  all_goals
    obtain rfl := Host.Outcome.next.inj h
    simp

/-- Every instruction but Annn, Fx1E and Fx29 leaves I, the transfers and the draw included (decision D12, log 14). -/
theorem exec_leaves_ireg (h : exec i s = .next t) (hld : ∀ nnn, i ≠ .ldI nnn) (hadd : ∀ x, i ≠ .addI x)
    (hglyph : ∀ x, i ≠ .ldF x) : t.ireg = s.ireg := by
  cases i
  case ldI nnn => exact absurd rfl (hld nnn)
  case addI x => exact absurd rfl (hadd x)
  case ldF x => exact absurd rfl (hglyph x)
  case drw | ldB | storeRegs | loadRegs =>
    obtain rfl := Host.Outcome.next.inj h
    exact guardRange_keeps s State.ireg (raiseFatal_ireg s) (by simp)
  case ret | call =>
    obtain rfl := Host.Outcome.next.inj h
    split <;> simp
  all_goals
    obtain rfl := Host.Outcome.next.inj h
    simp

end

/-- Settles O44: the frames of memory and of I over every instruction. -/
theorem onlyStoresWriteMemoryAndLoadsWriteI : Obligations.OnlyStoresWriteMemoryAndLoadsWriteI := by
  unfold Obligations.OnlyStoresWriteMemoryAndLoadsWriteI
  exact fun _ _ _ h => ⟨exec_leaves_mem h, exec_leaves_ireg h⟩

/-! ### The stores in range, and the fetch after them -/

@[simp] theorem length_bcdDigits (b : Byte) : (bcdDigits b).length = 3 := rfl

/-- Fx55 with V0..Vx all below 4096 stores them at I (43_index_memory.md R114). -/
theorem exec_storeRegs_inRange {x : Reg} (hr : s.iAddr + (x.val + 1) ≤ 4096) :
    exec (.storeRegs x) s = .next (s.store s.iAddr (s.regsUpTo x)) := by
  rw [exec_storeRegs, guardRange_ok s _ (.inr hr)]

/-- Fx33 with its three bytes below 4096 stores the digits at I (43_index_memory.md R113). -/
theorem exec_ldB_inRange {x : Reg} (hr : s.iAddr + 3 ≤ 4096) :
    exec (.ldB x) s = .next (s.store s.iAddr (bcdDigits (s.getV x))) := by
  rw [exec_ldB, guardRange_ok s _ (.inr hr)]

/-- The byte read at an address after a run of bytes is stored: the run's byte where it reaches, else what was there. -/
theorem byteAt_store {base : Nat} {bs : List Byte} (hm : s.mem.wf = true) (hr : base + bs.length ≤ 4096) (a : Nat) :
    (s.store base bs).byteAt a =
      if base ≤ a ∧ a < base + bs.length then bs.getD (a - base) 0 else s.byteAt a :=
  get_storeBytes hr hm a

/-- A running machine with pc in range executes the word of the two bytes at pc (40_pipeline.md R60). -/
theorem stepWith_runs_word_at_pc (keys : Word) (rnd : Byte) (hrun : s.halted = none) (hpc : s.pc.toNat + 2 ≤ 4096) :
    stepWith keys rnd s =
      exec (decodeWord (loadWord s.mem s.pc.toNat)) ((s.beginStep keys rnd).latchWord (loadWord s.mem s.pc.toNat)) := by
  rcases stepWith_cases s keys rnd with ⟨r, hh, -⟩ | ⟨-, hout, -⟩ | ⟨-, -, hstep⟩
  · simp [hrun] at hh
  · omega
  · exact hstep

/-- Settles O47: in range either store is `State.store` of its bytes, so the two bytes that the fetch of u reads are given by
`byteAt_store`. -/
theorem storedInstructionRunsNext : Obligations.StoredInstructionRunsNext := by
  unfold Obligations.StoredInstructionRunsNext
  intro s t u i x bs keys rnd hm hi hr hexec hmem hrun hpc
  have hstored : t = s.store s.iAddr bs := by
    rcases hi with ⟨rfl, rfl⟩ | ⟨rfl, rfl⟩
    · rw [length_regsUpTo] at hr
      rw [exec_storeRegs_inRange s hr] at hexec
      exact (Host.Outcome.next.inj hexec).symm
    · rw [length_bcdDigits] at hr
      rw [exec_ldB_inRange s hr] at hexec
      exact (Host.Outcome.next.inj hexec).symm
  have hbyte : ∀ a, u.byteAt a =
      if s.iAddr ≤ a ∧ a < s.iAddr + bs.length then bs.getD (a - s.iAddr) 0 else s.byteAt a := by
    intro a
    rw [byteAt_of_mem hmem, hstored, byteAt_store s hm hr]
  exact ⟨u.byteAt u.pc.toNat, u.byteAt (u.pc.toNat + 1), hbyte _, hbyte _, stepWith_runs_word_at_pc u keys rnd hrun hpc⟩

end Sys2Proof.Machine
end

