-- ==== Sys2Proof/Proofs/Fields.lean ====
section
/-! PROOFS. The fields of an instruction word as numbers: the value of each, and how they overlap (30_encoding.md R51). -/

namespace Sys2Proof

/-! ### The value of each field -/

/-- A run of a word's bits, as a number: dividing drops the bits below it, the remainder those above it. -/
theorem toNat_extractLsb'_word (start len : Nat) (w : Word) :
    (w.extractLsb' start len).toNat = w.toNat / 2 ^ start % 2 ^ len := by
  rw [BitVec.extractLsb'_toNat, Nat.shiftRight_eq_div_pow]

/-- `op` is the top field, so nothing above it is dropped. -/
theorem toNat_opOf (w : Word) : (opOf w).toNat = w.toNat / 4096 := by
  have hbits : (opOf w).toNat = w.toNat / 4096 % 16 := toNat_extractLsb'_word 12 4 w
  have hw : w.toNat < 65536 := w.isLt
  omega

theorem val_xOf (w : Word) : (xOf w).val = w.toNat / 256 % 16 := toNat_extractLsb'_word 8 4 w

theorem val_yOf (w : Word) : (yOf w).val = w.toNat / 16 % 16 := toNat_extractLsb'_word 4 4 w

/-! `n`, `nn` and `nnn` start at bit 0, so each is a remainder alone (a shift by 0 is the word). -/

theorem toNat_nOf (w : Word) : (nOf w).toNat = w.toNat % 16 := BitVec.extractLsb'_toNat 0 4 w

theorem toNat_nnOf (w : Word) : (nnOf w).toNat = w.toNat % 256 := BitVec.extractLsb'_toNat 0 8 w

theorem toNat_nnnOf (w : Word) : (nnnOf w).toNat = w.toNat % 4096 := BitVec.extractLsb'_toNat 0 12 w

/-! ### How the fields overlap -/

theorem toNat_nnOf_eq_y_n (w : Word) : (nnOf w).toNat = (yOf w).val * 16 + (nOf w).toNat := by
  rw [toNat_nnOf, val_yOf, toNat_nOf]
  omega

theorem toNat_nnnOf_eq_x_nn (w : Word) : (nnnOf w).toNat = (xOf w).val * 256 + (nnOf w).toNat := by
  rw [toNat_nnnOf, val_xOf, toNat_nnOf]
  omega

/-- Settles O1: the value of each of the six fields, then the two overlaps. -/
theorem fieldsOfInstructionWord : Obligations.FieldsOfInstructionWord := by
  unfold Obligations.FieldsOfInstructionWord
  exact fun w => ⟨toNat_opOf w, val_xOf w, val_yOf w, toNat_nOf w, toNat_nnOf w, toNat_nnnOf w,
    toNat_nnOf_eq_y_n w, toNat_nnnOf_eq_x_nn w⟩

end Sys2Proof
end

