-- ==== Sys2Proof/Proofs/Control.lean ====
section
/-! PROOFS. Control transfer: the no-ops, RET, JP, CALL and the conditional skips (41_control.md). -/

namespace Sys2Proof.Machine

variable (s : State)

/-! ### The frames of the return stack's two updates and of the fetch, and pc after 2 bytes -/

theorem onlyChanges_push (a : Word) : OnlyChanges [.sp, .stack] s (s.push a) := by
  intro p hp
  cases p
  case sp | stack => simp at hp
  case registers | memory => exact fun _ => rfl
  all_goals rfl

theorem onlyChanges_pop : OnlyChanges [.sp] s s.pop := by
  intro p hp
  cases p
  case sp => simp at hp
  case registers | memory => exact fun _ => rfl
  all_goals rfl

/-- The fetch of a word writes pc and the step's own fields `ctx` and `result`. -/
theorem onlyChanges_fetched (keys : Word) (rnd : Byte) (w : Word) :
    OnlyChanges [.pc, .ctx, .result] s ((s.beginStep keys rnd).latchWord w) := by
  intro p hp
  cases p
  case pc | ctx | result => simp at hp
  case registers | memory => exact fun _ => rfl
  all_goals rfl

/-- pc after the fetch advance, and after a skip, as a number (00_scope.md R8). -/
theorem toNat_add_two (a : Word) : (a + 2).toNat = (a.toNat + 2) % 65536 := BitVec.toNat_add a 2

/-! ### SYS and the unknown opcodes -/

/-- The execute phase of SYS and of the unknown opcode of each family is the identity (R70, 40_pipeline.md R63). -/
theorem exec_noop {i : Instr} {x y : Reg} {n : Nibble} {nn : Byte} {nnn : Addr12}
    (hi : i ∈ [Instr.sys nnn, .nop5 x y n, .nop8 x y n, .nop9 x y n, .nopE x nn, .nopF x nn]) : exec i s = .next s := by
  simp only [List.mem_cons, List.not_mem_nil, or_false] at hi
  rcases hi with rfl | rfl | rfl | rfl | rfl | rfl
  · exact exec_sys s nnn
  · exact exec_nop5 s x y n
  · exact exec_nop8 s x y n
  · exact exec_nop9 s x y n
  · exact exec_nopE s x nn
  · exact exec_nopF s x nn

/-- Settles O21: the execute phase is the identity (`exec_noop`), so the whole step is the fetch. -/
theorem sysAndUnknownOpcodesDoNothing : Obligations.SysAndUnknownOpcodesDoNothing := by
  unfold Obligations.SysAndUnknownOpcodesDoNothing
  intro s x y n nn nnn i hi
  refine ⟨⟨s, exec_noop s hi, onlyChanges_refl s []⟩, fun keys rnd hrun hpc hdecode => ?_⟩
  have hstep : stepWith keys rnd s = .next ((s.beginStep keys rnd).latchWord (loadWord s.mem s.pc.toNat)) := by
    rw [stepWith_runs_word_at_pc s keys rnd hrun hpc, hdecode, exec_noop _ hi]
  exact ⟨_, hstep, toNat_add_two s.pc, rfl, onlyChanges_fetched s keys rnd _⟩

/-! ### RET, JP and CALL -/

/-- Settles O22: the pop, or the fatal condition, is the branch of `exec_ret` that sp selects. -/
theorem retPopsOrUnderflows : Obligations.RetPopsOrUnderflows := by
  unfold Obligations.RetPopsOrUnderflows
  intro s
  constructor
  · intro hpos _
    have hexec : exec .ret s = .next (s.setPc (s.getS (s.sp - 1))).pop := by
      rw [exec_ret, if_neg (by omega)]
    have hframe : OnlyChanges [.pc, .sp] s (s.setPc (s.getS (s.sp - 1))).pop :=
      ((onlyChanges_setPc s _).mono (by simp)).trans ((onlyChanges_pop _).mono (by simp))
    exact ⟨_, hexec, rfl, rfl, hframe⟩
  · intro hempty
    exact ⟨s.raiseFatal .stackUnderflow 0, by rw [exec_ret, if_pos hempty], fatallyHalts_raiseFatal s _ _⟩

/-- Settles O23: the push and the jump, or the fatal condition, is the branch of `exec_call` that sp selects; the entries after the
push are those of `getS_push`. -/
theorem callPushesOrOverflows : Obligations.CallPushesOrOverflows := by
  unfold Obligations.CallPushesOrOverflows
  intro s nnn
  constructor
  · intro hroom
    have hexec : exec (.call nnn) s = .next ((s.push s.pc).setPc (addrOfImm nnn)) := by
      rw [exec_call, if_pos hroom]
    have hentry : (s.push s.pc).getS s.sp = s.pc := by rw [getS_push s s.pc hroom, if_pos rfl]
    have hothers : ∀ k, k ≠ s.sp → (s.push s.pc).getS k = s.getS k := fun k hk => by
      rw [getS_push s s.pc hroom, if_neg hk]
    have hframe : OnlyChanges [.pc, .sp, .stack] s ((s.push s.pc).setPc (addrOfImm nnn)) :=
      ((onlyChanges_push s _).mono (by simp)).trans ((onlyChanges_setPc _ _).mono (by simp))
    exact ⟨_, hexec, toNat_addrOfImm nnn, rfl, hentry, hothers, hframe⟩
  · intro hfull
    have hexec : exec (.call nnn) s = .next (s.raiseFatal .stackOverflow 16) := by
      rw [exec_call, if_neg (by rw [hfull]; decide)]
    exact ⟨_, hexec, fatallyHalts_raiseFatal s _ _⟩

/-- Settles O24: JP is `State.setPc` of the zero-extended immediate, which has the immediate's value. -/
theorem jumpReplacesPc : Obligations.JumpReplacesPc := by
  unfold Obligations.JumpReplacesPc
  exact fun s nnn => ⟨_, exec_jp s nnn, toNat_addrOfImm nnn, onlyChanges_setPc s _⟩

/-! ### The conditional skips -/

/-- An execute phase that is a skip on a Boolean test passes over exactly 2 bytes where the condition it tests holds, and writes
nothing but pc (R74). -/
theorem skips_iff {o : Host.Outcome State Fault Refusal} {c : Bool} {P : Prop} [Decidable P]
    (hexec : o = .next (s.skipIf c)) (htest : c = true ↔ P) :
    ∃ t, o = .next t ∧ OnlyChanges [.pc] s t ∧ t.pc.toNat = (if P then (s.pc.toNat + 2) % 65536 else s.pc.toNat) := by
  refine ⟨_, hexec, onlyChanges_skipIf s c, ?_⟩
  by_cases hP : P
  · rw [skipIf_pc, if_pos (htest.mpr hP), if_pos hP, toNat_add_two]
  · rw [skipIf_pc, if_neg (mt htest.mp hP), if_neg hP]

/-- Settles O26: each of the four is a skip whose Boolean test decides the condition stated. -/
theorem conditionalSkips : Obligations.ConditionalSkips := by
  unfold Obligations.ConditionalSkips
  exact fun s x y nn => ⟨skips_iff s (exec_seImm s x nn) beq_iff_eq, skips_iff s (exec_sneImm s x nn) bne_iff_ne,
    skips_iff s (exec_seReg s x y) beq_iff_eq, skips_iff s (exec_sneReg s x y) bne_iff_ne⟩

end Sys2Proof.Machine
end

