-- ==== Sys2Proof/Proofs/Alu.lean ====
section
/-! PROOFS. Register loads, arithmetic, logic, shifts and the random byte (42_alu.md). -/

namespace Sys2Proof.Machine

variable (s : State)

/-! ### Instructions that write no flag -/

/-- Settles O29: each is one write of Vx; the sum is modulo 256 because a register holds 8 bits (R103). -/
theorem loadsAndAddImmediate : Obligations.LoadsAndAddImmediate := by
  unfold Obligations.LoadsAndAddImmediate
  intro s x y nn
  have hsum : ((s.setV x (s.getV x + nn)).getV x).toNat = ((s.getV x).toNat + nn.toNat) % 256 := by
    rw [getV_setV_same]; exact BitVec.toNat_add _ _
  exact ⟨⟨_, exec_ldImm s x nn, getV_setV_same s x _, regsOnly_setV s x _, onlyChanges_setV s x _⟩,
    ⟨_, exec_addImm s x nn, hsum, regsOnly_setV s x _, onlyChanges_setV s x _⟩,
    ⟨_, exec_ldReg s x y, getV_setV_same s x _, regsOnly_setV s x _, onlyChanges_setV s x _⟩⟩

/-- Settles O30: each is one write of Vx, whose bits are those of the bitwise operation. -/
theorem logicOperations : Obligations.LogicOperations := by
  unfold Obligations.LogicOperations
  intro s x y
  refine ⟨⟨_, exec_orReg s x y, regsOnly_setV s x _, onlyChanges_setV s x _, fun k _ => ?_⟩,
    ⟨_, exec_andReg s x y, regsOnly_setV s x _, onlyChanges_setV s x _, fun k _ => ?_⟩,
    ⟨_, exec_xorReg s x y, regsOnly_setV s x _, onlyChanges_setV s x _, fun k _ => ?_⟩⟩
  · rw [getV_setV_same, BitVec.getLsbD_or]
  · rw [getV_setV_same, BitVec.getLsbD_and]
  · rw [getV_setV_same, BitVec.getLsbD_xor, Bool.bne_eq_xor]

/-- Settles O34: one write of Vx with the step's random byte, of which only the bits of nn are kept. -/
theorem randomByteIsMasked : Obligations.RandomByteIsMasked := by
  unfold Obligations.RandomByteIsMasked
  intro s x nn
  refine ⟨_, exec_rnd s x nn, fun k _ => ?_, regsOnly_setV s x _, onlyChanges_setV s x _⟩
  rw [getV_setV_same, BitVec.getLsbD_and]

/-! ### The flags and the shift source as numbers -/

theorem bit_decide (P : Prop) [Decidable P] : bit (decide P) = if P then 1 else 0 := by
  unfold bit; by_cases h : P <;> simp [h]

theorem toNat_lowBitFlag (src : Byte) : (lowBitFlag src).toNat = src.toNat % 2 := by
  rw [lowBitFlag, BitVec.toNat_and]; exact Nat.and_one_is_mod _

/-- `src >> 7` is 0 or 1 already, so the mask of R100 drops nothing. -/
theorem toNat_highBitFlag (src : Byte) : (highBitFlag src).toNat = src.toNat / 128 := by
  have hmask : (highBitFlag src).toNat = src.toNat / 128 % 2 := by
    rw [highBitFlag, BitVec.toNat_and, BitVec.toNat_ushiftRight, Nat.shiftRight_eq_div_pow]
    exact Nat.and_one_is_mod _
  have hsrc : src.toNat < 256 := src.isLt
  omega

theorem toNat_shiftRight_one (src : Byte) : (src >>> 1).toNat = src.toNat / 2 := by
  rw [BitVec.toNat_ushiftRight, Nat.shiftRight_one]

theorem toNat_shiftLeft_one (src : Byte) : (src <<< 1).toNat = src.toNat * 2 % 256 := by
  rw [BitVec.toNat_shiftLeft, Nat.shiftLeft_eq]

/-- The difference modulo 256, written with the borrow added to the minuend. -/
theorem toNat_sub_byte (a b : Byte) : (a - b).toNat = (a.toNat + 256 - b.toNat) % 256 := by
  have hb : b.toNat < 256 := b.isLt
  rw [BitVec.toNat_sub]
  omega

/-- The shift source is the register SHIFT_SOURCE names (00_scope.md R5). -/
theorem shiftOperand_eq {x y : Reg} {src : Byte}
    (hsrc : (s.config.shiftSource = .vx ∧ src = s.getV x) ∨ (s.config.shiftSource = .vy ∧ src = s.getV y)) :
    s.shiftOperand x y = src := by
  rcases hsrc with ⟨hparam, rfl⟩ | ⟨hparam, rfl⟩ <;> simp [State.shiftOperand, hparam]

/-! ### Instructions that write a flag -/

/-- An execute phase that writes a flag and then a result leaves the result in Vx, the flag in VF where that is not Vx (R102),
and everything else as it was. -/
theorem answers_flagThenResult {o : Host.Outcome State Fault Refusal} {flag r : Byte} {x : Reg} {n : Nat}
    (hexec : o = .next (s.flagThenResult flag x r)) (hresult : r.toNat = n) (IsFlag : Byte → Prop) (hflag : IsFlag flag) :
    ∃ t, o = .next t ∧ (t.getV x).toNat = n ∧ (x ≠ VF → IsFlag (t.getV VF)) ∧
      RegsOnly [x, VF] s t ∧ OnlyChanges [.registers] s t := by
  refine ⟨_, hexec, ?_, fun hx => ?_, regsOnly_flagThenResult s flag x r, onlyChanges_flagThenResult s flag x r⟩
  · rw [getV_flagThenResult, if_pos rfl, hresult]
  · rw [getV_flagThenResult, if_neg hx.symm, if_pos rfl]; exact hflag

/-- Settles O31: the flag is the carry of the exact sum, the result the sum modulo 256. -/
theorem addSetsCarry : Obligations.AddSetsCarry := by
  unfold Obligations.AddSetsCarry
  intro s x y
  exact answers_flagThenResult s (exec_addReg s x y) (BitVec.toNat_add _ _) (· = _) (bit_decide _)

/-- Settles O32: SUBN is SUB with minuend and subtrahend exchanged; the flag of both is strict (90_conflicts.md C1). -/
theorem subtractionsSetStrictNotBorrow : Obligations.SubtractionsSetStrictNotBorrow := by
  unfold Obligations.SubtractionsSetStrictNotBorrow
  intro s x y
  exact ⟨answers_flagThenResult s (exec_sub s x y) (toNat_sub_byte _ _) (· = _) (bit_decide _),
    answers_flagThenResult s (exec_subn s x y) (toNat_sub_byte _ _) (· = _) (bit_decide _)⟩

/-- Settles O33: for either SHIFT_SOURCE the shift source is src, halved or doubled modulo 256; the flag is its low or its high
bit. -/
theorem shiftsSetShiftedOutBit : Obligations.ShiftsSetShiftedOutBit := by
  unfold Obligations.ShiftsSetShiftedOutBit
  intro s x y src hsrc
  have hshr := exec_shr s x y
  have hshl := exec_shl s x y
  rw [shiftOperand_eq s hsrc] at hshr hshl
  exact ⟨answers_flagThenResult s hshr (toNat_shiftRight_one src) (·.toNat = _) (toNat_lowBitFlag src),
    answers_flagThenResult s hshl (toNat_shiftLeft_one src) (·.toNat = _) (toNat_highBitFlag src)⟩

end Sys2Proof.Machine
end

section
/-! PROOFS. The index register and the memory transfers (43_index_memory.md). -/

namespace Sys2Proof.Machine

/-- A zero-extended 12-bit immediate stays in the address space 0x000..0xFFF (43_index_memory.md R110). -/
theorem toNat_addrOfImm_le (nnn : Addr12) : (addrOfImm nnn).toNat ≤ 0xFFF := by
  have hnnn : nnn.toNat < 4096 := nnn.isLt
  rw [toNat_addrOfImm]
  omega

/-- Settles O37: LD I is `State.setI` of the zero-extended immediate, whose 12 bits bound it by 0xFFF. -/
theorem loadIndexImmediate : Obligations.LoadIndexImmediate := by
  unfold Obligations.LoadIndexImmediate
  exact fun s nnn => ⟨_, exec_ldI s nnn, toNat_addrOfImm nnn, toNat_addrOfImm_le nnn, onlyChanges_setI s _⟩

end Sys2Proof.Machine
end

section
/-! PROOFS. The display: the clear, and which pixels a draw toggles and whether it collides (44_display.md). -/

namespace Sys2Proof.Machine

variable (s : State)

/-! ### The pixels of a blank display, and the wrap of a pixel's coordinates -/

theorem pixelOf_blank (row col : Nat) : pixelOf (Vector.replicate 32 0) row col = false := by
  rw [pixelOf, Vector.getElem_replicate]
  exact BitVec.getLsbD_zero

theorem pixelOf_wrapped (d : Vector Row 32) (row col : Nat) : pixelOf d (row % 32) (col % 64) = pixelOf d row col := by
  simp only [pixelOf, Nat.mod_mod]

/-- Two pairs of coordinates that agree modulo the display's size name the same pixel (44_display.md R121). -/
theorem pixelOf_congr_mod (d : Vector Row 32) {row col row' col' : Nat} (hrow : row % 32 = row' % 32)
    (hcol : col % 64 = col' % 64) : pixelOf d row col = pixelOf d row' col' := by
  rw [← pixelOf_wrapped d row col, hrow, hcol, pixelOf_wrapped]

/-! ### The targets of a sprite read from memory -/

section
variable (m : Memory) (base len cx row : Nat)

/-- The targets of the 1 bits, by sprite row i and column offset j (44_display.md R121). -/
theorem spriteHits_loadBytes (r q : Nat) : SpriteHits (loadBytes m base len) cx row r q ↔
    ∃ i j, i < len ∧ j < 8 ∧ (m.get (base + i)).getLsbD (7 - j) = true ∧
      r % 32 = (row + i) % 32 ∧ q % 64 = (cx + j) % 64 := by
  unfold SpriteHits
  rw [length_loadBytes]
  constructor
  · rintro ⟨i, hi, hr, j, hj, hbit, hq⟩
    rw [getD_loadBytes m len base i hi] at hbit
    exact ⟨i, j, hi, hj, hbit, hr, hq⟩
  · rintro ⟨i, j, hi, hj, hbit, hr, hq⟩
    refine ⟨i, hi, hr, j, hj, ?_, hq⟩
    rw [getD_loadBytes m len base i hi]
    exact hbit

/-- Some target of a 1 bit is lit exactly when the wrapped target of some 1 bit is. -/
theorem exists_spriteHits_lit (d : Vector Row 32) :
    (∃ r q, SpriteHits (loadBytes m base len) cx row r q ∧ pixelOf d r q = true) ↔
    ∃ i j, i < len ∧ j < 8 ∧ (m.get (base + i)).getLsbD (7 - j) = true ∧
      pixelOf d ((row + i) % 32) ((cx + j) % 64) = true := by
  simp only [spriteHits_loadBytes, pixelOf_wrapped]
  constructor
  · rintro ⟨r, q, ⟨i, j, hi, hj, hbit, hr, hq⟩, hlit⟩
    exact ⟨i, j, hi, hj, hbit, pixelOf_congr_mod d hr hq ▸ hlit⟩
  · rintro ⟨i, j, hi, hj, hbit, hlit⟩
    exact ⟨row + i, cx + j, ⟨i, j, hi, hj, hbit, rfl, rfl⟩, hlit⟩

end

/-! ### What a draw does -/

/-- A draw of at most 32 rows changes a pixel exactly when it is the target of a 1 bit (44_display.md R123). -/
theorem pixelOf_drawRows_ne_iff {bs : List Byte} (hlen : bs.length ≤ 32) (k : Canvas) (cx row r q : Nat) :
    pixelOf (drawRows k cx row bs).rows r q ≠ pixelOf k.rows r q ↔ SpriteHits bs cx row r q := by
  have hdraw := pixelOf_drawRows cx r q bs row k hlen
  cases hold : pixelOf k.rows r q <;> simp [hdraw, hold]

/-- A sprite has at most 15 rows (44_display.md R125). -/
theorem length_sprite_le (n : Nibble) : (loadBytes s.mem s.iAddr n.toNat).length ≤ 32 := by
  have hn : n.toNat < 16 := n.isLt
  rw [length_loadBytes]
  omega

variable (x y : Reg) (n : Nibble)

/-- The pixels a Dxyn changes: the wrapped targets of the sprite's 1 bits. -/
theorem pixelOf_drawSprite_ne_iff {row col : Nat} (hrow : row < 32) (hcol : col < 64) :
    pixelOf (s.drawSprite x y n).rows row col ≠ pixelOf s.display row col ↔
      ∃ i j, i < n.toNat ∧ j < 8 ∧ (s.byteAt (s.iAddr + i)).getLsbD (7 - j) = true ∧
        row = ((s.getV y).toNat + i) % 32 ∧ col = ((s.getV x).toNat + j) % 64 := by
  have htargets := spriteHits_loadBytes s.mem s.iAddr n.toNat (s.getV x).toNat (s.getV y).toNat row col
  rw [Nat.mod_eq_of_lt hrow, Nat.mod_eq_of_lt hcol] at htargets
  exact (pixelOf_drawRows_ne_iff (length_sprite_le s n) _ _ _ row col).trans htargets

/-- A Dxyn collides exactly when a 1 bit's target was lit before the draw. -/
theorem coll_drawSprite : (s.drawSprite x y n).coll = true ↔
    ∃ i j, i < n.toNat ∧ j < 8 ∧ (s.byteAt (s.iAddr + i)).getLsbD (7 - j) = true ∧
      pixelOf s.display (((s.getV y).toNat + i) % 32) (((s.getV x).toNat + j) % 64) = true := by
  have hcoll := coll_drawRows (s.getV x).toNat (loadBytes s.mem s.iAddr n.toNat) (s.getV y).toNat
    { rows := s.display, coll := false } (length_sprite_le s n)
  rw [exists_spriteHits_lit] at hcoll
  exact hcoll.trans (or_iff_right Bool.false_ne_true)

@[simp] theorem putCanvas_display (k : Canvas) : (s.putCanvas k).display = k.rows := rfl

/-- VF after a draw is its collision flag. -/
theorem getV_putCanvas_VF (k : Canvas) : (s.putCanvas k).getV VF = collisionFlag k.coll :=
  getV_setV_same (s.setDisplay k.rows) VF _

theorem collisionFlag_eq_one_or_zero (hit : Bool) : collisionFlag hit = 1 ∨ collisionFlag hit = 0 := by
  cases hit
  · exact .inr rfl
  · exact .inl rfl

theorem collisionFlag_eq_one_iff (hit : Bool) : collisionFlag hit = 1 ↔ hit = true := by
  cases hit <;> decide

/-- Dxyn with its sprite below 4096, or with no sprite row, composites it (44_display.md R122). -/
theorem exec_drw_inRange (hr : n = 0 ∨ s.iAddr + n.toNat ≤ 4096) :
    exec (.drw x y n) s = .next (s.putCanvas (s.drawSprite x y n)) := by
  have hlen : n.toNat = 0 ∨ s.iAddr + n.toNat ≤ 4096 := hr.imp_left (congrArg BitVec.toNat)
  rw [exec_drw, guardRange_ok s _ hlen]

/-- Settles O49: the pixels toggled are those of `pixelOf_drawSprite_ne_iff`, and VF is the flag of the collision that
`coll_drawSprite` decides. -/
theorem drawTogglesExactlyTheSpritePixels : Obligations.DrawTogglesExactlyTheSpritePixels := by
  unfold Obligations.DrawTogglesExactlyTheSpritePixels
  intro s x y n hr
  refine ⟨_, exec_drw_inRange s x y n hr, fun row col hrow hcol => ?_, ?_, ?_⟩
  · rw [putCanvas_display]
    exact pixelOf_drawSprite_ne_iff s x y n hrow hcol
  · rw [getV_putCanvas_VF]
    exact collisionFlag_eq_one_or_zero _
  · rw [getV_putCanvas_VF, collisionFlag_eq_one_iff]
    exact coll_drawSprite s x y n

/-! ### CLS -/

/-- Settles O48: CLS replaces the display by the blank one whatever it was, so also after a draw, in range or fatal. -/
theorem clearBlanksEveryPixel : Obligations.ClearBlanksEveryPixel := by
  unfold Obligations.ClearBlanksEveryPixel
  intro s
  have hframe : OnlyChanges [.display, .dirty] s ((s.setDisplay (Vector.replicate 32 0)).setDirty true) :=
    ((onlyChanges_setDisplay s _).mono (by simp)).trans ((onlyChanges_setDirty _ _).mono (by simp))
  exact ⟨_, exec_cls s, pixelOf_blank, rfl, hframe, fun x y n => ⟨_, _, exec_drw _ x y n, exec_cls _, rfl⟩⟩

end Sys2Proof.Machine
end

section
/-! PROOFS. The key tests, the key wait and the timer transfers (45_timers_input.md). -/

namespace Sys2Proof.Machine

variable (s : State) (x : Reg)

/-! ### The key tests -/

theorem keyTest_of_le (down : Bool) (hkey : (s.getV x).toNat ≤ 0xF) :
    s.keyTest x down = s.skipIf (isDown s.ctx.keys (s.getV x).toNat == down) := by
  rcases keyTest_cases s x down with ⟨habove, -⟩ | ⟨-, h⟩
  · omega
  · exact h

theorem keyTest_of_gt (down : Bool) (hkey : 0xF < (s.getV x).toNat) :
    s.keyTest x down = s.raiseFatal .invalidKeyIndex (s.getV x).toNat := by
  rcases keyTest_cases s x down with ⟨-, h⟩ | ⟨hle, -⟩
  · exact h
  · omega

/-- Settles O54: up to 0xF both are skips on the sampled level of key Vx, SKNP on its complement; above 0xF both raise the fatal
condition (`keyTest_cases`). -/
theorem keySkips : Obligations.KeySkips := by
  unfold Obligations.KeySkips
  intro s x
  constructor
  · intro hkey
    have hskp := exec_skp s x
    have hsknp := exec_sknp s x
    rw [keyTest_of_le s x _ hkey] at hskp hsknp
    have hup : (isDown s.ctx.keys (s.getV x).toNat == false) = true ↔ ¬ s.ctx.keys.getLsbD (s.getV x).toNat = true :=
      beq_iff_eq.trans Bool.eq_false_iff
    obtain ⟨t, hexec, hframe, hpc⟩ := skips_iff s hsknp hup
    exact ⟨skips_iff s hskp beq_iff_eq, t, hexec, hframe, hpc.trans (ite_not _ _ _)⟩
  · intro hkey
    exact ⟨⟨_, by rw [exec_skp, keyTest_of_gt s x _ hkey], fatallyHalts_raiseFatal s _ _⟩,
      ⟨_, by rw [exec_sknp, keyTest_of_gt s x _ hkey], fatallyHalts_raiseFatal s _ _⟩⟩

/-! ### The key wait -/

theorem waitKey_of_anyDown {k : Nat} (hfound : anyDown s.ctx.keys = some k) :
    s.waitKey x = s.setV x (BitVec.ofNat 8 k) := by
  unfold State.waitKey
  rw [hfound]

theorem waitKey_of_keys_zero (hnone : s.ctx.keys = 0) :
    s.waitKey x = (s.setPc (s.pc - 2)).setResult .needsInput := by
  rcases waitKey_cases s x with ⟨k, hfound, -⟩ | ⟨-, h⟩
  · rw [hnone] at hfound
    obtain ⟨-, hdown, -⟩ := anyDown_eq_some.mp hfound
    simp [isDown] at hdown
  · exact h

/-- pc moved back to the instruction's own address, as a number (00_scope.md R8). -/
theorem toNat_sub_two (a : Word) : (a - 2).toNat = (a.toNat + 65534) % 65536 := by
  rw [BitVec.toNat_sub, Nat.add_comm]
  rfl

/-- Settles O55: the least key down is the one `anyDown` finds (`anyDown_eq_some`), and its index fits a byte; with none down the
wait writes pc and the result. -/
theorem keyWaitTakesLeastKeyOrRetries : Obligations.KeyWaitTakesLeastKeyOrRetries := by
  unfold Obligations.KeyWaitTakesLeastKeyOrRetries
  intro s x
  constructor
  · intro k hk hdown hleast
    have hfound : anyDown s.ctx.keys = some k := anyDown_eq_some.mpr ⟨hk, hdown, hleast⟩
    have hexec : exec (.ldVxK x) s = .next (s.setV x (BitVec.ofNat 8 k)) := by
      rw [exec_ldVxK, waitKey_of_anyDown s x hfound]
    have hindex : ((s.setV x (BitVec.ofNat 8 k)).getV x).toNat = k := by
      rw [getV_setV_same, BitVec.toNat_ofNat]
      omega
    exact ⟨_, hexec, hindex, regsOnly_setV s x _, onlyChanges_setV s x _⟩
  · intro hnone
    have hexec : exec (.ldVxK x) s = .next ((s.setPc (s.pc - 2)).setResult .needsInput) := by
      rw [exec_ldVxK, waitKey_of_keys_zero s x hnone]
    have hframe : OnlyChanges [.pc, .result] s ((s.setPc (s.pc - 2)).setResult .needsInput) :=
      ((onlyChanges_setPc s _).mono (by simp)).trans ((onlyChanges_setResult _ _).mono (by simp))
    exact ⟨_, hexec, toNat_sub_two s.pc, rfl, hframe⟩

/-! ### The timer transfers -/

/-- The sound output is on exactly while ST is not 0 (10_state.md R18). -/
theorem outputs_soundActive_iff : s.outputs.soundActive = true ↔ s.st ≠ 0 := bne_iff_ne

/-- Settles O56: each is one write, of Vx, DT or ST; the sound output is read from the ST written. -/
theorem timerTransfers : Obligations.TimerTransfers := by
  unfold Obligations.TimerTransfers
  intro s x
  exact ⟨⟨_, exec_ldVxDT s x, getV_setV_same s x _, regsOnly_setV s x _, onlyChanges_setV s x _⟩,
    ⟨_, exec_ldDTVx s x, rfl, onlyChanges_setDT s _⟩,
    ⟨_, exec_ldSTVx s x, rfl, outputs_soundActive_iff _, onlyChanges_setST s _⟩⟩

end Sys2Proof.Machine
end

section
/-! PROOFS. How a step ends, and the timer engine's countdown (60_exceptions.md). -/

namespace Sys2Proof.Machine

/-! ### How a step ends -/

section
variable {s : State} {i : Instr} {t : State}

/-- What an execute phase can do to the result and the record: keep both, ask for input (a waiting Fx0A alone), or raise a fatal
condition and do nothing else (40_pipeline.md R61). -/
theorem exec_result_cases (h : exec i s = .next t) :
    (t.result = s.result ∧ t.halted = s.halted) ∨
    (t.result = some .needsInput ∧ t.halted = s.halted ∧ s.ctx.keys = 0 ∧ ∃ x, i = .ldVxK x) ∨
    (∃ kind info, t = s.raiseFatal kind info) := by
  cases i
  case ldVxK x =>
    obtain rfl := Host.Outcome.next.inj h
    rcases waitKey_cases s x with ⟨k, -, hkey⟩ | ⟨hnone, hretry⟩
    · rw [hkey]; exact .inl ⟨rfl, rfl⟩
    · rw [hretry]; exact .inr (.inl ⟨rfl, rfl, hnone, x, rfl⟩)
  case drw | ldB | storeRegs | loadRegs =>
    obtain rfl := Host.Outcome.next.inj h
    rcases guardRange_cases s _ _ _ with ⟨-, hdone⟩ | ⟨-, -, hfatal⟩
    · rw [hdone]; exact .inl ⟨rfl, rfl⟩
    · exact .inr (.inr ⟨_, _, hfatal⟩)
  case skp | sknp =>
    obtain rfl := Host.Outcome.next.inj h
    rcases keyTest_cases s _ _ with ⟨-, hfatal⟩ | ⟨-, hskip⟩
    · exact .inr (.inr ⟨_, _, hfatal⟩)
    · rw [hskip]; exact .inl ⟨skipIf_result s _, skipIf_halted s _⟩
  case ret =>
    obtain rfl := Host.Outcome.next.inj h
    split
    · exact .inr (.inr ⟨_, _, rfl⟩)
    · exact .inl ⟨rfl, rfl⟩
  case call =>
    obtain rfl := Host.Outcome.next.inj h
    split
    · exact .inl ⟨rfl, rfl⟩
    · exact .inr (.inr ⟨_, _, rfl⟩)
  all_goals
    obtain rfl := Host.Outcome.next.inj h
    exact .inl (by simp)

end

/-- Settles O11: the step begins as completed and running; the fetch fails with the record, or the execute phase ends as
`exec_result_cases` says. -/
theorem stepEndsWithOneOfThreeResults : Obligations.StepEndsWithOneOfThreeResults := by
  unfold Obligations.StepEndsWithOneOfThreeResults
  intro s t keys rnd h
  rcases stepWith_cases s keys rnd with ⟨r, -, hstop⟩ | ⟨-, -, hfetch⟩ | ⟨hrun, -, hexec⟩
  · rw [hstop] at h
    cases h
  · obtain rfl := Host.Outcome.next.inj (hfetch.symm.trans h)
    exact .inr (.inr ⟨_, rfl, rfl⟩)
  · rcases exec_result_cases (hexec.symm.trans h) with ⟨hres, hkept⟩ | ⟨hres, hkept, hkeys, hwait⟩ | ⟨kind, info, rfl⟩
    · exact .inl ⟨hres, hkept.trans hrun⟩
    · exact .inr (.inl ⟨hres, hkept.trans hrun, hkeys, hwait⟩)
    · exact .inr (.inr ⟨_, rfl, rfl⟩)

/-! ### The countdown under the default mode -/

/-- One tick takes one from the timer and leaves 0 at 0: subtraction on natural numbers (60_exceptions.md R150). -/
theorem toNat_tickTimer_saturate (b : Byte) : (tickTimer .saturate b).toNat = b.toNat - 1 := by
  change (if b.toNat > 0 then b - 1 else b).toNat = b.toNat - 1
  by_cases hpos : b.toNat > 0
  · rw [if_pos hpos]
    exact BitVec.toNat_sub_of_le (x := b) (y := 1) (BitVec.le_def.mpr hpos)
  · rw [if_neg hpos]
    omega

theorem toNat_tickTimerTimes_saturate (b : Byte) (k : Nat) : (tickTimerTimes .saturate b k).toNat = b.toNat - k := by
  induction k with
  | zero => rfl
  | succ k ih => rw [tickTimerTimes, toNat_tickTimer_saturate, ih, Nat.sub_sub]

/-- Settles O59: both timers count down by `toNat_tickTimerTimes_saturate`, and so does the DT that Fx15 has set to 5. -/
theorem saturatingTimerReachesZeroAndStays : Obligations.SaturatingTimerReachesZeroAndStays := by
  unfold Obligations.SaturatingTimerReachesZeroAndStays
  intro s k hmode
  have hcount : ∀ b, (tickTimerTimes s.config.timerUnderflow b k).toNat = b.toNat - k := by
    rw [hmode]
    exact fun b => toNat_tickTimerTimes_saturate b k
  refine ⟨hcount s.dt, hcount s.st, fun x hfive => ⟨_, exec_ldDTVx s x, hfive, fun hk => ?_⟩⟩
  have hzero : (tickTimerTimes s.config.timerUnderflow (s.getV x) k).toNat = 0 := by
    rw [hcount, hfive]
    exact Nat.sub_eq_zero_of_le hk
  exact BitVec.eq_of_toNat_eq hzero

end Sys2Proof.Machine
end

section
/-! PROOFS. What `reset(image)` leaves (70_reset_and_hazards.md R160 to R162): every byte of memory, and the other rows. -/

namespace Sys2Proof.Machine

/-! ### The reset contents of memory -/

/-- The default FONT takes the first 80 addresses; above it an unwritten address reads as zero (decision D14, log 7). -/
theorem initialByte_of_le {a : Nat} (ha : 80 ≤ a) : initialByte a = 0 :=
  List.getD_eq_default Config.fontBytes 0 ha

/-- Storing what the empty memory already reads as adds no cell. -/
theorem storeBytes_nil_of_initialByte {bs : List Byte} :
    ∀ {base : Nat}, (∀ k, k < bs.length → bs.getD k 0 = initialByte (base + k)) → storeBytes [] base bs = [] := by
  induction bs with
  | nil => exact fun _ => rfl
  | cons b bs ih =>
    intro base hbs
    have hset : Memory.set [] base b = [] := if_pos (hbs 0 (Nat.zero_lt_succ _))
    rw [storeBytes, hset]
    refine ih fun k hk => ?_
    rw [Nat.add_assoc, Nat.add_comm 1 k]
    exact hbs (k + 1) (Nat.succ_lt_succ hk)

/-! ### Memory after a reset with any font and image -/

section
variable (c : Config) (font : Vector Byte 80) (image : List Byte)

/-- The load rule for every address (R161): the image up to 3584 bytes, else the font, else the reset contents. -/
theorem byteAt_resetWith (a : Nat) :
    (State.resetWith c font image).byteAt a =
      if 0x200 ≤ a ∧ a < 0x200 + min 3584 image.length then image.getD (a - 0x200) 0
      else if a < 80 then font.toList.getD a 0 else initialByte a := by
  have hfont : 0 + font.toList.length ≤ 4096 := by rw [Vector.length_toList]; decide
  have himage : 0x200 + (image.take 3584).length ≤ 4096 := by rw [List.length_take]; omega
  have hload : (State.resetWith c font image).byteAt a =
      if 0x200 ≤ a ∧ a < 0x200 + (image.take 3584).length then (image.take 3584).getD (a - 0x200) 0
      else (storeBytes [] 0 font.toList).get a :=
    get_storeBytes himage (wf_storeBytes hfont rfl) a
  rw [hload, get_storeBytes hfont rfl, List.length_take, Vector.length_toList]
  split
  · rw [List.getD_eq_getElem?_getD, List.getElem?_take_of_lt (by omega), ← List.getD_eq_getElem?_getD]
  · simp

/-- Bytes 0..L-1 of the image, L = min(length, 3584), stand at 0x200.. (R161). -/
theorem byteAt_resetWith_image {k : Nat} (hk : k < min image.length 3584) :
    (State.resetWith c font image).byteAt (0x200 + k) = image.getD k 0 := by
  rw [byteAt_resetWith, if_pos (by omega), Nat.add_sub_cancel_left]

/-- The FONT parameter stands at 0x000..0x04F (R162). -/
theorem byteAt_resetWith_font {k : Nat} (hk : k < 80) :
    (State.resetWith c font image).byteAt k = font.toList.getD k 0 := by
  rw [byteAt_resetWith, if_neg (by omega), if_pos hk]

/-- Outside the font and the image memory is zero (decision D14, log 7). -/
theorem byteAt_resetWith_free {a : Nat} (hfont : 80 ≤ a) (himage : a < 0x200 ∨ 0x200 + image.length ≤ a) :
    (State.resetWith c font image).byteAt a = 0 := by
  rw [byteAt_resetWith, if_neg (by omega), if_neg (by omega), initialByte_of_le hfont]

/-- Only the first 3584 bytes of the image matter (R161). -/
theorem resetWith_take : State.resetWith c font (image.take 3584) = State.resetWith c font image := by
  simp only [State.resetWith, List.take_take, Nat.min_self]

/-! ### The zeros of the other rows -/

theorem getV_resetWith (r : Reg) : (State.resetWith c font image).getV r = 0 :=
  Vector.getElem_replicate r.isLt

theorem getS_resetWith (k : Nat) : (State.resetWith c font image).getS k = 0 :=
  List.getElem?_getD_replicate_default_eq 0 16 k

end

/-! ### State.reset as a reset(image) -/

/-- The default font is what memory reads as anyway, so loading it lists nothing. -/
theorem reset_eq_resetWith : State.reset = State.resetWith Config.default Config.font [] := by
  have hmem : storeBytes [] 0 Config.font.toList = [] :=
    storeBytes_nil_of_initialByte fun k _ => by rw [Nat.zero_add]; rfl
  simp only [State.resetWith, List.take_nil, hmem]
  rfl

/-- Settles O15: the clauses on memory are the cases of `byteAt_resetWith`; a reset takes the image's first 3584 bytes. -/
theorem resetLoadsFontAndImage : Obligations.ResetLoadsFontAndImage := by
  unfold Obligations.ResetLoadsFontAndImage
  intro c font image
  refine ⟨rfl, fun _ hk => byteAt_resetWith_image c font image hk, (resetWith_take c font image).symm, ?_,
    fun _ hk => byteAt_resetWith_font c font image hk⟩
  rintro rfl a ha -
  exact byteAt_resetWith_free c font [] (by omega) (.inr ha)

/-- Settles O16: the rows a reset leaves alone are those of `State.reset`, and memory outside font and image is
`byteAt_resetWith_free`. -/
theorem resetValuesTheSpecDecides : Obligations.ResetValuesTheSpecDecides := by
  unfold Obligations.ResetValuesTheSpecDecides
  refine ⟨fun c font image => ?_, reset_eq_resetWith, rfl, by decide⟩
  exact ⟨getV_resetWith c font image, rfl, getS_resetWith c font image, rfl, rfl, rfl, pixelOf_blank, rfl, rfl, rfl,
    fun _ _ hfont himage => byteAt_resetWith_free c font image hfont himage⟩

end Sys2Proof.Machine
end

section
/-! PROOFS. The decoder, the encoder and the opcode table agree (30_encoding.md R51 to R56). -/

namespace Sys2Proof

/-! ### What the check excludes: the fallback rows' selectors -/

theorem wellFormed_sys_iff (nnn : Addr12) : (Instr.sys nnn).wellFormed = true ↔ nnn ≠ 0x0E0#12 ∧ nnn ≠ 0x0EE#12 := by
  simp [Instr.wellFormed]

theorem wellFormed_nop8_iff (x y : Reg) (n : Nibble) : (Instr.nop8 x y n).wellFormed = true ↔
    n.toNat ≠ 0 ∧ n.toNat ≠ 1 ∧ n.toNat ≠ 2 ∧ n.toNat ≠ 3 ∧ n.toNat ≠ 4 ∧ n.toNat ≠ 5 ∧ n.toNat ≠ 6 ∧ n.toNat ≠ 7 ∧
      n.toNat ≠ 14 := by
  simp [Instr.wellFormed, family8Selectors, ← BitVec.toNat_inj]

theorem wellFormed_nopE_iff (x : Reg) (nn : Byte) :
    (Instr.nopE x nn).wellFormed = true ↔ nn ≠ 0x9E#8 ∧ nn ≠ 0xA1#8 := by
  simp [Instr.wellFormed, familyESelectors]

theorem wellFormed_nopF_iff (x : Reg) (nn : Byte) : (Instr.nopF x nn).wellFormed = true ↔
    nn ≠ 0x07#8 ∧ nn ≠ 0x0A#8 ∧ nn ≠ 0x15#8 ∧ nn ≠ 0x18#8 ∧ nn ≠ 0x1E#8 ∧ nn ≠ 0x29#8 ∧ nn ≠ 0x33#8 ∧ nn ≠ 0x55#8 ∧
      nn ≠ 0x65#8 := by
  simp [Instr.wellFormed, familyFSelectors]

/-! ### Decoding what the encoder wrote -/

/-- A word of family 0 other than 00E0 and 00EE is SYS (41_control.md R70). -/
theorem decodeFamily0_sys {nnn : Addr12} (h : (Instr.sys nnn).wellFormed = true) :
    decodeFamily0 (wordNNN 0#4 nnn) = .sys nnn := by
  obtain ⟨hcls, hret⟩ := (wellFormed_sys_iff nnn).mp h
  have hne : ∀ {a : Addr12}, nnn ≠ a → wordNNN 0#4 nnn ≠ wordNNN 0#4 a := fun ha hw =>
    ha (by rw [← nnnOf_wordNNN 0#4 nnn, hw, nnnOf_wordNNN])
  have hnotCls : wordNNN 0#4 nnn ≠ 0x00E0#16 := hne hcls
  have hnotRet : wordNNN 0#4 nnn ≠ 0x00EE#16 := hne hret
  rw [decodeFamily0, if_neg hnotCls, if_neg hnotRet, nnnOf_wordNNN]

/-- The decoder reads back every field that the encoder of a well-formed instruction wrote. -/
theorem decodeWord_encode {i : Instr} (h : i.wellFormed = true) : decodeWord (encode i) = i := by
  cases i
  case cls | ret => rfl
  case sys nnn => simp only [encode, decodeWord, opOf_wordNNN]; exact decodeFamily0_sys h
  case nop5 x y n | nop9 x y n =>
    have hn : n ≠ 0#4 := by simpa [Instr.wellFormed] using h
    simp [encode, decodeWord, hn]
  case nop8 x y n =>
    have hn := (wellFormed_nop8_iff x y n).mp h
    simp [encode, decodeWord, decodeFamily8, hn]
  case nopE x nn =>
    have hnn := (wellFormed_nopE_iff x nn).mp h
    simp [encode, decodeWord, decodeFamilyE, hnn]
  case nopF x nn =>
    have hnn := (wellFormed_nopF_iff x nn).mp h
    simp [encode, decodeWord, decodeFamilyF, hnn]
  case ldReg | orReg | andReg | xorReg | addReg | sub | shr | subn | shl => simp [encode, decodeWord, decodeFamily8]
  case skp | sknp => simp [encode, decodeWord, decodeFamilyE]
  case ldVxDT | ldVxK | ldDTVx | ldSTVx | addI | ldF | ldB | storeRegs | loadRegs =>
    simp [encode, decodeWord, decodeFamilyF]
  all_goals simp [encode, decodeWord]

/-- Settles O2: the two bytes make up the instruction's word again, which decodes to the instruction (`decodeWord_encode`). -/
theorem decodeOfEncodeIsIdentity : Obligations.DecodeOfEncodeIsIdentity := by
  unfold Obligations.DecodeOfEncodeIsIdentity
  intro i rest h
  rw [encodeBytes, List.cons_append, List.singleton_append, decode_two, wordOfBytes_highByte_lowByte, decodeWord_encode h]

/-! ### Encoding what the decoder read -/

section
variable {w : Word} {op : Nibble}

theorem wordNNN_of_opOf (h : opOf w = op) : wordNNN op (nnnOf w) = w := by rw [← h, wordNNN_fields]

theorem wordXNN_of_opOf (h : opOf w = op) : wordXNN op (xOf w) (nnOf w) = w := by rw [← h, wordXNN_fields]

theorem wordXYN_of_opOf (h : opOf w = op) : wordXYN op (xOf w) (yOf w) (nOf w) = w := by rw [← h, wordXYN_fields]

end

/-- An instruction that stands for a word: well-formed, and encoded as the word. -/
def StandsFor (i : Instr) (w : Word) : Prop := i.wellFormed = true ∧ encode i = w

theorem standsFor_decodeFamily0 {w : Word} (h : opOf w = 0x0#4) : StandsFor (decodeFamily0 w) w := by
  have hw := wordNNN_of_opOf h
  unfold decodeFamily0
  split
  · subst w; exact ⟨rfl, rfl⟩
  · split
    · subst w; exact ⟨rfl, rfl⟩
    · next hcls hret =>
      refine ⟨(wellFormed_sys_iff _).mpr ⟨fun hn => hcls ?_, fun hn => hret ?_⟩, hw⟩
      · rw [← hw, hn]; rfl
      · rw [← hw, hn]; rfl

theorem standsFor_decodeFamily8 {w : Word} {x y : Reg} {n : Nibble} (hw : wordXYN 0x8#4 x y n = w) :
    StandsFor (decodeFamily8 x y n) w := by
  subst w
  unfold decodeFamily8
  split
  case h_10 => exact ⟨(wellFormed_nop8_iff x y n).mpr (by simp_all), rfl⟩
  all_goals
    next hn => exact ⟨rfl, congrArg (wordXYN _ x y) (BitVec.eq_of_toNat_eq hn.symm)⟩

theorem standsFor_decodeFamilyE {w : Word} {x : Reg} {nn : Byte} (hw : wordXNN 0xE#4 x nn = w) :
    StandsFor (decodeFamilyE x nn) w := by
  subst w
  unfold decodeFamilyE
  split_ifs
  case neg => exact ⟨(wellFormed_nopE_iff x nn).mpr ⟨‹_›, ‹_›⟩, rfl⟩
  all_goals subst nn; exact ⟨rfl, rfl⟩

theorem standsFor_decodeFamilyF {w : Word} {x : Reg} {nn : Byte} (hw : wordXNN 0xF#4 x nn = w) :
    StandsFor (decodeFamilyF x nn) w := by
  subst w
  unfold decodeFamilyF
  split_ifs
  case neg => exact ⟨(wellFormed_nopF_iff x nn).mpr (by simp_all), rfl⟩
  all_goals subst nn; exact ⟨rfl, rfl⟩

/-- Every word is the word of the instruction it decodes to, family by family. -/
theorem standsFor_decodeWord (w : Word) : StandsFor (decodeWord w) w := by
  have hop : ∀ {op : Nibble}, (opOf w).toNat = op.toNat → opOf w = op := BitVec.eq_of_toNat_eq
  unfold decodeWord
  split
  case h_1 h => exact standsFor_decodeFamily0 (hop h)
  case h_2 h | h_3 h | h_11 h | h_12 h => exact ⟨rfl, wordNNN_of_opOf (hop h)⟩
  case h_4 h | h_5 h | h_7 h | h_8 h | h_13 h => exact ⟨rfl, wordXNN_of_opOf (hop h)⟩
  case h_6 h | h_10 h =>
    split_ifs with hn
    · exact ⟨rfl, (congrArg (wordXYN _ _ _) hn.symm).trans (wordXYN_of_opOf (hop h))⟩
    · exact ⟨bne_iff_ne.mpr hn, wordXYN_of_opOf (hop h)⟩
  case h_9 h => exact standsFor_decodeFamily8 (wordXYN_of_opOf (hop h))
  case h_14 h => exact ⟨rfl, wordXYN_of_opOf (hop h)⟩
  case h_15 h => exact standsFor_decodeFamilyE (wordXNN_of_opOf (hop h))
  case h_16 =>
    have hlt : (opOf w).toNat < 16 := (opOf w).isLt
    have h : (opOf w).toNat = 15 := by simp only [imp_false] at *; omega
    exact standsFor_decodeFamilyF (wordXNN_of_opOf (hop h))

/-- Settles O3: `StandsFor` is what the statement says of a word and its decoded instruction. -/
theorem encodeOfDecodeIsIdentity : Obligations.EncodeOfDecodeIsIdentity := standsFor_decodeWord

/-! ### The row the table selects -/

/-- The word of every instruction matches its own row, which is in the table (30_encoding.md R55). -/
theorem rowEncoding : ∀ i : Instr, Laws.RowEncoding.Statement i
  | .cls => Laws.RowEncoding.cls
  | .ret => Laws.RowEncoding.ret
  | .sys nnn => Laws.RowEncoding.sys nnn
  | .jp nnn => Laws.RowEncoding.jp nnn
  | .call nnn => Laws.RowEncoding.call nnn
  | .seImm x nn => Laws.RowEncoding.seImm x nn
  | .sneImm x nn => Laws.RowEncoding.sneImm x nn
  | .seReg x y => Laws.RowEncoding.seReg x y
  | .nop5 x y n => Laws.RowEncoding.nop5 x y n
  | .ldImm x nn => Laws.RowEncoding.ldImm x nn
  | .addImm x nn => Laws.RowEncoding.addImm x nn
  | .ldReg x y => Laws.RowEncoding.ldReg x y
  | .orReg x y => Laws.RowEncoding.orReg x y
  | .andReg x y => Laws.RowEncoding.andReg x y
  | .xorReg x y => Laws.RowEncoding.xorReg x y
  | .addReg x y => Laws.RowEncoding.addReg x y
  | .sub x y => Laws.RowEncoding.sub x y
  | .shr x y => Laws.RowEncoding.shr x y
  | .subn x y => Laws.RowEncoding.subn x y
  | .shl x y => Laws.RowEncoding.shl x y
  | .nop8 x y n => Laws.RowEncoding.nop8 x y n
  | .sneReg x y => Laws.RowEncoding.sneReg x y
  | .nop9 x y n => Laws.RowEncoding.nop9 x y n
  | .ldI nnn => Laws.RowEncoding.ldI nnn
  | .jpV0 nnn => Laws.RowEncoding.jpV0 nnn
  | .rnd x nn => Laws.RowEncoding.rnd x nn
  | .drw x y n => Laws.RowEncoding.drw x y n
  | .skp x => Laws.RowEncoding.skp x
  | .sknp x => Laws.RowEncoding.sknp x
  | .nopE x nn => Laws.RowEncoding.nopE x nn
  | .ldVxDT x => Laws.RowEncoding.ldVxDT x
  | .ldVxK x => Laws.RowEncoding.ldVxK x
  | .ldDTVx x => Laws.RowEncoding.ldDTVx x
  | .ldSTVx x => Laws.RowEncoding.ldSTVx x
  | .addI x => Laws.RowEncoding.addI x
  | .ldF x => Laws.RowEncoding.ldF x
  | .ldB x => Laws.RowEncoding.ldB x
  | .storeRegs x => Laws.RowEncoding.storeRegs x
  | .loadRegs x => Laws.RowEncoding.loadRegs x
  | .nopF x nn => Laws.RowEncoding.nopF x nn

section
variable {w : Word}

/-- A mask of the family and nn keeps exactly those two fields. -/
theorem masked_nn {v : Word} (h : w &&& 0xF0FF#16 = v) : opOf w = opOf v ∧ nnOf w = nnOf v := by
  have hmask : w &&& 0xF0FF#16 = wordXNN (opOf w) 0 (nnOf w) := by
    rw [← Laws.RowEncoding.wordXNN_selector (opOf w) (xOf w), wordXNN_fields]
  rw [← h, hmask, opOf_wordXNN, nnOf_wordXNN]
  exact ⟨rfl, rfl⟩

/-- A mask of the family and n keeps exactly those two fields. -/
theorem masked_n {v : Word} (h : w &&& 0xF00F#16 = v) : opOf w = opOf v ∧ nOf w = nOf v := by
  have hmask : w &&& 0xF00F#16 = wordXYN (opOf w) 0 0 (nOf w) := by
    rw [← Laws.RowEncoding.wordXYN_selector (opOf w) (xOf w) (yOf w), wordXYN_fields]
  rw [← h, hmask, opOf_wordXYN, nOf_wordXYN]
  exact ⟨rfl, rfl⟩

/-- A mask of the family alone keeps that field. -/
theorem masked_op {v : Word} (h : w &&& 0xF000#16 = v) : opOf w = opOf v := by
  have hmask : w &&& 0xF000#16 = wordNNN (opOf w) 0#12 := by
    rw [← Laws.RowEncoding.wordNNN_family (opOf w) (nnnOf w), wordNNN_fields]
  rw [← h, hmask, opOf_wordNNN]

/-- A row with a selector that matches a word is the row of the instruction the word decodes to. -/
theorem rowId_of_specific_matches {q : TableRow} (hq : q ∈ tableSpecificRows) (hm : q.matchesWord w = true) :
    (decodeWord w).rowId = q.id := by
  have hmasked : w &&& q.mask = q.value := beq_iff_eq.mp hm
  simp only [tableSpecificRows, List.mem_append, List.mem_cons, List.not_mem_nil, or_false] at hq
  rcases hq with (hwhole | hnn) | hn
  · rcases hwhole with rfl | rfl
    all_goals
      have hw : w = _ := (BitVec.and_allOnes (x := w)).symm.trans hmasked
      rw [hw]
      rfl
  · rcases hnn with rfl | rfl | rfl | rfl | rfl | rfl | rfl | rfl | rfl | rfl | rfl
    all_goals
      obtain ⟨hop, hsel⟩ := masked_nn hmasked
      simp only [decodeWord, hop, hsel]
      rfl
  · rcases hn with rfl | rfl | rfl | rfl | rfl | rfl | rfl | rfl | rfl | rfl | rfl
    all_goals
      obtain ⟨hop, hsel⟩ := masked_n hmasked
      simp only [decodeWord, hop, hsel]
      rfl

/-- Of the family rows only that of the word's family matches. -/
theorem family_matches_eq {q r : TableRow} (hq : q ∈ tableFamilyRows) (hr : r ∈ tableFamilyRows)
    (hqm : q.matchesWord w = true) (hrm : r.matchesWord w = true) : q = r := by
  have hmask : ∀ p ∈ tableFamilyRows, p.mask = 0xF000#16 := by decide
  have hinj : ∀ p ∈ tableFamilyRows, ∀ p' ∈ tableFamilyRows, opOf p.value = opOf p'.value → p = p' := by decide
  have hop : ∀ {p}, p ∈ tableFamilyRows → p.matchesWord w = true → opOf w = opOf p.value := fun {p} hp hm =>
    masked_op (hmask p hp ▸ beq_iff_eq.mp hm)
  exact hinj q hq r hr ((hop hq hqm).symm.trans (hop hr hrm))

/-- Rows that carry the same name are the same row. -/
theorem row_eq_of_id {q r : TableRow} (hq : q ∈ opcodeTable) (hr : r ∈ opcodeTable) (h : q.id = r.id) : q = r :=
  List.inj_on_of_nodup_map (f := TableRow.id) (l := opcodeTable) (by decide) hq hr h

/-- A row matching a word is the decoded row or gives way to it. -/
theorem eq_or_priority_lt {q r : TableRow} (hq : q ∈ opcodeTable) (hr : r ∈ opcodeTable)
    (hqm : q.matchesWord w = true) (hrm : r.matchesWord w = true) (hid : r.id = (decodeWord w).rowId) :
    q = r ∨ r.priority < q.priority := by
  have hlow : ∀ p ∈ tableSpecificRows, p.priority < 3 := by decide
  have hfam : ∀ p ∈ tableFamilyRows, p.priority = 3 := by decide
  rcases List.mem_append.mp hq with hqs | hqf
  · exact .inl (row_eq_of_id hq hr ((rowId_of_specific_matches hqs hqm).symm.trans hid.symm))
  · rcases List.mem_append.mp hr with hrs | hrf
    · exact .inr ((hlow r hrs).trans_eq (hfam q hqf).symm)
    · exact .inl (family_matches_eq hqf hrf hqm hrm)

end

/-- A row that every other row gives way to is the one that is left. -/
theorem mostSpecific_eq_singleton {rows : List TableRow} {r : TableRow} (hnodup : rows.Nodup) (hr : r ∈ rows)
    (h : ∀ q ∈ rows, q = r ∨ r.priority < q.priority) : mostSpecific rows = [r] := by
  refine List.perm_singleton.mp ((List.perm_ext_iff_of_nodup (hnodup.filter _) (List.nodup_singleton r)).mpr fun q => ?_)
  simp only [List.mem_filter, List.all_eq_true, decide_eq_true_eq, List.mem_singleton]
  constructor
  · rintro ⟨hq, hmin⟩
    exact (h q hq).resolve_right (Nat.not_lt.mpr (hmin r hr))
  · rintro rfl
    refine ⟨hr, fun p hp => ?_⟩
    rcases h p hp with rfl | hlt
    · exact le_rfl
    · exact hlt.le

/-- Settles O4: the decoded row matches the word that encodes it (`rowEncoding`), and any other match gives way to it. -/
theorem tableSelectsDecodedRow : Obligations.TableSelectsDecodedRow := by
  unfold Obligations.TableSelectsDecodedRow
  intro w
  obtain ⟨r, hr, hid, hm⟩ := rowEncoding (decodeWord w)
  obtain ⟨-, hencode⟩ := standsFor_decodeWord w
  rw [hencode] at hm
  have hselected : selectedRows w = [r] := by
    refine mostSpecific_eq_singleton (List.Nodup.filter _ (by decide)) (List.mem_filter.mpr ⟨hr, hm⟩) fun q hq => ?_
    obtain ⟨hqt, hqm⟩ := List.mem_filter.mp hq
    exact eq_or_priority_lt hqt hr hqm hm hid
  rw [hselected, List.map_singleton, hid]

/-! ### Words written out -/

/-- Settles O5: each word is decoded by evaluation. -/
theorem sampleWordsDecode : Obligations.SampleWordsDecode := by
  unfold Obligations.SampleWordsDecode
  decide

end Sys2Proof
end

section
/-! PROOFS. The frame of every instruction: the parts of the state it may write, and the registers (10_state.md R11 to R21). -/

namespace Sys2Proof.Machine

/-! ### What an instruction may write -/

/-- The parts of the state an instruction may write, in its fatal cases too (60_exceptions.md R140). -/
def writtenParts : Instr → List Part
  | .sys _ | .nop5 _ _ _ | .nop8 _ _ _ | .nop9 _ _ _ | .nopE _ _ | .nopF _ _ => []
  | .cls => [.display, .dirty]
  | .ret => [.pc, .sp, .halted, .result]
  | .call _ => [.sp, .stack, .pc, .halted, .result]
  | .jp _ | .jpV0 _ | .seImm _ _ | .sneImm _ _ | .seReg _ _ | .sneReg _ _ => [.pc]
  | .ldImm _ _ | .addImm _ _ | .ldReg _ _ | .orReg _ _ | .andReg _ _ | .xorReg _ _ | .addReg _ _ | .sub _ _ | .shr _ _
  | .subn _ _ | .shl _ _ | .rnd _ _ | .ldVxDT _ => [.registers]
  | .ldI _ | .addI _ | .ldF _ => [.index]
  | .drw _ _ _ => [.display, .registers, .dirty, .halted, .result]
  | .skp _ | .sknp _ => [.pc, .halted, .result]
  | .ldVxK _ => [.registers, .pc, .result]
  | .ldDTVx _ => [.dt]
  | .ldSTVx _ => [.st]
  | .ldB _ | .storeRegs _ => [.memory, .halted, .result]
  | .loadRegs _ => [.registers, .halted, .result]

/-- The registers an instruction may write: its destinations, and VF for the flag (10_state.md R11). -/
def writtenRegs : Instr → List Reg
  | .ldImm x _ | .addImm x _ | .ldReg x _ | .orReg x _ | .andReg x _ | .xorReg x _ | .rnd x _ | .ldVxDT x | .ldVxK x => [x]
  | .addReg x _ | .sub x _ | .shr x _ | .subn x _ | .shl x _ => [x, VF]
  | .drw _ _ _ => [VF]
  | .loadRegs x => (List.finRange 16).filter (· ≤ x)
  | .cls | .ret | .sys _ | .jp _ | .call _ | .seImm _ _ | .sneImm _ _ | .seReg _ _ | .nop5 _ _ _ | .nop8 _ _ _
  | .sneReg _ _ | .nop9 _ _ _ | .ldI _ | .jpV0 _ | .skp _ | .sknp _ | .nopE _ _ | .ldDTVx _ | .ldSTVx _
  | .addI _ | .ldF _ | .ldB _ | .storeRegs _ | .nopF _ _ => []

/-- No instruction writes the parameters or the model's own fields but the result. -/
theorem ownPart_notMem_writtenParts {p : Part} (i : Instr) (hp : p ∈ [Part.config, .ctx, .inputs, .seq]) :
    p ∉ writtenParts i := by
  have hout : ∀ q ∈ writtenParts i, q ∉ [Part.config, .ctx, .inputs, .seq] := by
    cases i <;> simp [writtenParts]
  exact fun hmem => hout p hmem hp

variable {s t : State}

/-! ### The frames of the composite operations -/

/-- One effect after another changes the parts of both. -/
theorem OnlyChanges.andThen {u : State} {ps qs : List Part} (h : OnlyChanges ps s t) (h' : OnlyChanges qs t u) :
    OnlyChanges (ps ++ qs) s u :=
  (h.mono (List.subset_append_left ps qs)).trans (h'.mono (List.subset_append_right ps qs))

theorem onlyChanges_raiseFatal (s : State) (k : FatalKind) (n : Nat) :
    OnlyChanges [.halted, .result] s (s.raiseFatal k n) := by
  obtain ⟨-, -, hframe⟩ := fatallyHalts_raiseFatal s k n
  exact hframe

/-- An effect or a fatal condition in its place changes the effect's parts, `halted` and the result. -/
theorem OnlyChanges.orFatal {done u : State} {ps : List Part} (h : OnlyChanges ps s done)
    (hu : u = done ∨ ∃ k n, u = s.raiseFatal k n) : OnlyChanges (ps ++ [.halted, .result]) s u := by
  rcases hu with rfl | ⟨k, n, rfl⟩
  · exact h.mono (List.subset_append_left ps _)
  · exact (onlyChanges_raiseFatal s k n).mono (List.subset_append_right ps _)

section
variable (s)

theorem guardRange_eq_or_fatal (base len : Nat) (done : State) :
    s.guardRange base len done = done ∨ ∃ k n, s.guardRange base len done = s.raiseFatal k n := by
  rcases guardRange_cases s base len done with ⟨-, h⟩ | ⟨-, -, h⟩
  · exact .inl h
  · exact .inr ⟨_, _, h⟩

theorem keyTest_eq_or_fatal (x : Reg) (down : Bool) :
    s.keyTest x down = s.skipIf (isDown s.ctx.keys (s.getV x).toNat == down) ∨
      ∃ k n, s.keyTest x down = s.raiseFatal k n := by
  rcases keyTest_cases s x down with ⟨-, h⟩ | ⟨-, h⟩
  · exact .inr ⟨_, _, h⟩
  · exact .inl h

/-- What a drawn sprite leaves: display, VF and `dirty` (44_display.md R122). -/
theorem onlyChanges_putCanvas (k : Canvas) : OnlyChanges [.display, .registers, .dirty] s (s.putCanvas k) :=
  ((onlyChanges_setDisplay s _).andThen (onlyChanges_setV _ VF _)).andThen (onlyChanges_setDirty _ _)

theorem onlyChanges_waitKey (x : Reg) : OnlyChanges [.registers, .pc, .result] s (s.waitKey x) := by
  rcases waitKey_cases s x with ⟨k, -, h⟩ | ⟨-, h⟩
  · rw [h]; exact (onlyChanges_setV s x _).mono (by simp)
  · rw [h]; exact ((onlyChanges_setPc s _).andThen (onlyChanges_setResult _ _)).mono (by simp)

end

/-! ### The frame of every instruction -/

/-- An instruction changes only the parts it may write. -/
theorem exec_onlyChanges {i : Instr} (h : exec i s = .next t) : OnlyChanges (writtenParts i) s t := by
  cases i <;> obtain rfl := Host.Outcome.next.inj h
  case sys | nop5 | nop8 | nop9 | nopE | nopF => exact onlyChanges_refl s _
  case cls => exact (onlyChanges_setDisplay s _).andThen (onlyChanges_setDirty _ _)
  case ret =>
    exact ((onlyChanges_setPc s _).andThen (onlyChanges_pop _)).orFatal ((ite_eq_or_eq _ _ _).symm.imp_right (⟨_, _, ·⟩))
  case call =>
    exact ((onlyChanges_push s _).andThen (onlyChanges_setPc _ _)).orFatal
      ((ite_eq_or_eq (s.sp < 16) _ _).imp_right (⟨_, _, ·⟩))
  case jp | jpV0 => exact onlyChanges_setPc s _
  case seImm | sneImm | seReg | sneReg => exact onlyChanges_skipIf s _
  case ldImm | addImm | ldReg | orReg | andReg | xorReg | rnd | ldVxDT => exact onlyChanges_setV s _ _
  case addReg | sub | shr | subn | shl => exact onlyChanges_flagThenResult s _ _ _
  case ldI | addI | ldF => exact onlyChanges_setI s _
  case drw => exact (onlyChanges_putCanvas s _).orFatal (guardRange_eq_or_fatal s _ _ _)
  case skp | sknp => exact (onlyChanges_skipIf s _).orFatal (keyTest_eq_or_fatal s _ _)
  case ldVxK => exact onlyChanges_waitKey s _
  case ldDTVx => exact onlyChanges_setDT s _
  case ldSTVx => exact onlyChanges_setST s _
  case ldB | storeRegs => exact (onlyChanges_store s _ _).orFatal (guardRange_eq_or_fatal s _ _ _)
  case loadRegs => exact (onlyChanges_loadV s _).orFatal (guardRange_eq_or_fatal s _ _ _)

/-- An instruction changes only the registers it may write. -/
theorem exec_regsOnly {i : Instr} (h : exec i s = .next t) : RegsOnly (writtenRegs i) s t := by
  by_cases hparts : Part.registers ∈ writtenParts i
  case neg => exact fun r _ => exec_onlyChanges h .registers hparts r
  cases i <;> obtain rfl := Host.Outcome.next.inj h
  case ldImm | addImm | ldReg | orReg | andReg | xorReg | rnd | ldVxDT => exact regsOnly_setV s _ _
  case addReg | sub | shr | subn | shl => exact regsOnly_flagThenResult s _ _ _
  case ldVxK x =>
    intro r hr
    exact waitKey_keeps s (State.getV · r) x (fun b => regsOnly_setV s x b r hr) rfl
  case drw =>
    intro r hr
    exact guardRange_keeps s (State.getV · r) (fun _ _ => rfl) (regsOnly_setV (s.setDisplay _) VF _ r hr)
  case loadRegs x =>
    intro r hr
    have hout : ¬ r.val < x.val + 1 := by simpa [writtenRegs, Nat.lt_succ_iff] using hr
    exact guardRange_keeps s (State.getV · r) (fun _ _ => rfl)
      (by rw [getV_loadV, length_loadBytes, if_neg hout])
  all_goals simp [writtenParts] at hparts

/-- Settles O35: a register that changed is one the instruction may write (`exec_regsOnly`), which the statement lists. -/
theorem onlyNamedRegistersChange : Obligations.OnlyNamedRegistersChange := by
  unfold Obligations.OnlyNamedRegistersChange
  intro i s t r h hchanged
  have hr : r ∈ writtenRegs i := by_contra fun hout => hchanged (exec_regsOnly h r hout)
  cases i <;> simp [writtenRegs] at hr
  case addReg | sub | shr | subn | shl => rcases hr with rfl | rfl <;> simp
  all_goals simp [hr]

end Sys2Proof.Machine
end

section
/-! PROOFS. Non-interference: an instruction behaves the same in two states that agree but for what it does not read
(10_state.md R12, R17 to R19; 60_exceptions.md R146). -/

namespace Sys2Proof.Machine

/-! ### States that agree but for one thing -/

/-- The updates that instructions are made of. -/
inductive Update where
  | setV (x : Reg) (b : Byte)
  | setPc (a : Word)
  | setI (a : Word)
  | setDT (b : Byte)
  | setST (b : Byte)
  | setMem (m : Memory)
  | setDisplay (d : Vector Row 32)
  | setDirty (b : Bool)
  | setResult (r : StepResult)
  | loadV (bs : List Byte)
  | push (a : Word)
  | pop
  | raiseFatal (kind : FatalKind) (info : Nat)

/-- The update as the model's named operation. -/
def Update.run : Update → State → State
  | .setV x b, s => s.setV x b
  | .setPc a, s => s.setPc a
  | .setI a, s => s.setI a
  | .setDT b, s => s.setDT b
  | .setST b, s => s.setST b
  | .setMem m, s => s.setMem m
  | .setDisplay d, s => s.setDisplay d
  | .setDirty b, s => s.setDirty b
  | .setResult r, s => s.setResult r
  | .loadV bs, s => s.loadV bs
  | .push a, s => s.push a
  | .pop, s => s.pop
  | .raiseFatal kind info, s => s.raiseFatal kind info

/-- `blank` overwrites something in the state that no update carries over into the rest, and that is no part of pc, I, the stack,
memory or the parameters: two states with `blank s = blank s'` agree but for it. -/
structure Blanks (blank : State → State) : Prop where
  reads : ∀ s, (blank s).pc = s.pc ∧ (blank s).ireg = s.ireg ∧ (blank s).stack = s.stack ∧ (blank s).sp = s.sp ∧
    (blank s).mem = s.mem ∧ (blank s).config = s.config
  absorbs : ∀ (u : Update) (s : State), blank (u.run (blank s)) = blank (u.run s)

/-- What an instruction reads of the registers and of the timers, the display and the inputs is the same in two states. -/
def SameReads (s s' : State) (i : Instr) : Prop :=
  (∀ r ∈ readsRegs i, s'.getV r = s.getV r) ∧
  match i with
  | .drw _ _ _ => s'.display = s.display
  | .skp _ | .sknp _ | .ldVxK _ => s'.ctx.keys = s.ctx.keys
  | .rnd _ _ => s'.ctx.rnd = s.ctx.rnd
  | .ldVxDT _ => s'.dt = s.dt
  | _ => True

/-- The bytes V0..Vx depend on those registers alone. -/
theorem regsUpTo_congr {s s' : State} {x : Reg} (h : ∀ r ≤ x, s'.getV r = s.getV r) : s'.regsUpTo x = s.regsUpTo x := by
  refine List.ext_getElem (by rw [length_regsUpTo, length_regsUpTo]) fun k hk hk' => ?_
  have hkx : k < x.val + 1 := by rwa [length_regsUpTo] at hk'
  have hr : (⟨k, by omega⟩ : Reg) ≤ x := Nat.le_of_lt_succ hkx
  rw [← List.getD_eq_getElem _ 0 hk, ← List.getD_eq_getElem _ 0 hk']
  exact (getD_regsUpTo s' x _ hr).trans ((h _ hr).trans (getD_regsUpTo s x _ hr).symm)

section
variable {blank : State → State} (hb : Blanks blank) {s s' : State} (hs : blank s = blank s')
include hb

/-- Two states that agree but for one thing still do after the same update. -/
theorem Blanks.update (u : Update) {s s' : State} (hs : blank s = blank s') : blank (u.run s) = blank (u.run s') := by
  rw [← hb.absorbs u s, hs, hb.absorbs u s']

include hs

theorem Blanks.reads_eq : s'.pc = s.pc ∧ s'.ireg = s.ireg ∧ s'.stack = s.stack ∧ s'.sp = s.sp ∧ s'.mem = s.mem ∧
    s'.config = s.config := by
  obtain ⟨hpc, hireg, hstack, hsp, hmem, hconfig⟩ := hb.reads s
  obtain ⟨hpc', hireg', hstack', hsp', hmem', hconfig'⟩ := hb.reads s'
  rw [← hs] at hpc' hireg' hstack' hsp' hmem' hconfig'
  exact ⟨hpc'.symm.trans hpc, hireg'.symm.trans hireg, hstack'.symm.trans hstack, hsp'.symm.trans hsp,
    hmem'.symm.trans hmem, hconfig'.symm.trans hconfig⟩

theorem Blanks.flagThenResult (f : Byte) (x : Reg) (r : Byte) :
    blank (s.flagThenResult f x r) = blank (s'.flagThenResult f x r) :=
  hb.update (.setV x r) (hb.update (.setV VF f) hs)

theorem Blanks.skipIf (c : Bool) : blank (s.skipIf c) = blank (s'.skipIf c) := by
  obtain ⟨hpc, -⟩ := hb.reads_eq hs
  cases c
  · exact hs
  · change blank (s.setPc (s.pc + 2)) = blank (s'.setPc (s'.pc + 2))
    rw [hpc]
    exact hb.update (.setPc _) hs

theorem Blanks.guardRange (base len : Nat) {done done' : State} (hdone : blank done = blank done') :
    blank (s.guardRange base len done) = blank (s'.guardRange base len done') := by
  unfold State.guardRange
  split
  · exact hb.update (.raiseFatal _ _) hs
  · exact hdone

theorem Blanks.putCanvas (k : Canvas) : blank (s.putCanvas k) = blank (s'.putCanvas k) :=
  hb.update (.setDirty true) (hb.update (.setV VF _) (hb.update (.setDisplay _) hs))

theorem Blanks.keyTest {x : Reg} (down : Bool) (hx : s'.getV x = s.getV x) (hkeys : s'.ctx.keys = s.ctx.keys) :
    blank (s.keyTest x down) = blank (s'.keyTest x down) := by
  unfold State.keyTest
  rw [hx, hkeys]
  split
  · exact hb.update (.raiseFatal _ _) hs
  · exact hb.skipIf hs _

theorem Blanks.waitKey (x : Reg) (hkeys : s'.ctx.keys = s.ctx.keys) : blank (s.waitKey x) = blank (s'.waitKey x) := by
  obtain ⟨hpc, -⟩ := hb.reads_eq hs
  unfold State.waitKey
  rw [hpc, hkeys]
  split
  · exact hb.update (.setV x _) hs
  · exact hb.update (.setResult _) (hb.update (.setPc _) hs)

/-- An instruction keeps two states in agreement that agree on what it reads. -/
theorem Blanks.exec_agrees {i : Instr} {t : State} (hreads : SameReads s s' i) (h : exec i s = .next t) :
    ∃ t', exec i s' = .next t' ∧ blank t = blank t' := by
  obtain ⟨hpc, hireg, hstack, hsp, hmem, hconfig⟩ := hb.reads_eq hs
  obtain ⟨hregs, hio⟩ := hreads
  have hI : s'.iAddr = s.iAddr := congrArg BitVec.toNat hireg
  have hS : ∀ k, s'.getS k = s.getS k := fun k => by simp only [State.getS, hstack]
  cases i
  all_goals
    obtain rfl := Host.Outcome.next.inj h
    refine ⟨_, rfl, ?_⟩
    dsimp only at hio
    simp only [readsRegs, List.mem_cons, List.not_mem_nil, or_false, forall_eq_or_imp, forall_eq] at hregs
  case sys | nop5 | nop8 | nop9 | nopE | nopF => exact hs
  case cls => exact hb.update (.setDirty _) (hb.update (.setDisplay _) hs)
  case ret =>
    rw [hsp, hS]
    split
    · exact hb.update (.raiseFatal _ _) hs
    · exact hb.update .pop (hb.update (.setPc _) hs)
  case call =>
    rw [hsp, hpc]
    split
    · exact hb.update (.setPc _) (hb.update (.push _) hs)
    · exact hb.update (.raiseFatal _ _) hs
  case jp => exact hb.update (.setPc _) hs
  case jpV0 => rw [hregs]; exact hb.update (.setPc _) hs
  case seImm | sneImm | seReg | sneReg => simp only [hregs]; exact hb.skipIf hs _
  case ldImm => exact hb.update (.setV _ _) hs
  case addImm | ldReg | orReg | andReg | xorReg => simp only [hregs]; exact hb.update (.setV _ _) hs
  case rnd | ldVxDT => rw [hio]; exact hb.update (.setV _ _) hs
  case addReg | sub | subn => simp only [hregs]; exact hb.flagThenResult hs _ _ _
  case shr | shl => simp only [State.shiftOperand, hregs, hconfig]; exact hb.flagThenResult hs _ _ _
  case ldI => exact hb.update (.setI _) hs
  case addI => rw [hireg, hregs]; exact hb.update (.setI _) hs
  case ldF => rw [hconfig, hregs]; exact hb.update (.setI _) hs
  case drw =>
    simp only [State.drawSprite, hI, hmem, hregs, hio]
    exact hb.guardRange hs _ _ (hb.putCanvas hs _)
  case skp | sknp => exact hb.keyTest hs _ hregs hio
  case ldVxK => exact hb.waitKey hs _ hio
  case ldDTVx => rw [hregs]; exact hb.update (.setDT _) hs
  case ldSTVx => rw [hregs]; exact hb.update (.setST _) hs
  case ldB =>
    simp only [State.store, hI, hmem, hregs]
    exact hb.guardRange hs _ _ (hb.update (.setMem _) hs)
  case storeRegs x =>
    have hup : s'.regsUpTo x = s.regsUpTo x := regsUpTo_congr fun r hr => hregs r (by simpa using hr)
    simp only [State.store, hI, hmem, hup]
    exact hb.guardRange hs _ _ (hb.update (.setMem _) hs)
  case loadRegs =>
    simp only [hI, hmem]
    exact hb.guardRange hs _ _ (hb.update (.loadV _) hs)

end

/-! ### The parts that can be blanked out -/

/-- The state with other keys sampled for the running step. -/
def State.withKeys (s : State) (keys : Word) : State := { s with ctx := { s.ctx with keys := keys } }

/-- The state with another random byte sampled for the running step. -/
def State.withRnd (s : State) (rnd : Byte) : State := { s with ctx := { s.ctx with rnd := rnd } }

/-- The state with another display and another `dirty`. -/
def State.withScreen (s : State) (d : Vector Row 32) (b : Bool) : State := (s.setDisplay d).setDirty b

theorem blanks_dt (b : Byte) : Blanks (State.setDT · b) where
  reads _ := ⟨rfl, rfl, rfl, rfl, rfl, rfl⟩
  absorbs u _ := by cases u <;> rfl

theorem blanks_st (b : Byte) : Blanks (State.setST · b) where
  reads _ := ⟨rfl, rfl, rfl, rfl, rfl, rfl⟩
  absorbs u _ := by cases u <;> rfl

theorem blanks_screen (d : Vector Row 32) (b : Bool) : Blanks (State.withScreen · d b) where
  reads _ := ⟨rfl, rfl, rfl, rfl, rfl, rfl⟩
  absorbs u _ := by cases u <;> rfl

theorem blanks_keys (keys : Word) : Blanks (State.withKeys · keys) where
  reads _ := ⟨rfl, rfl, rfl, rfl, rfl, rfl⟩
  absorbs u _ := by cases u <;> rfl

theorem blanks_rnd (rnd : Byte) : Blanks (State.withRnd · rnd) where
  reads _ := ⟨rfl, rfl, rfl, rfl, rfl, rfl⟩
  absorbs u _ := by cases u <;> rfl

/-- Two register files that agree but for VF are the same file once VF is set. -/
theorem setV_VF_congr {s s' : State} {b : Byte} (hv : ∀ r, r ≠ VF → s.getV r = s'.getV r)
    (hrest : { s with v := s'.v } = s') : s.setV VF b = s'.setV VF b := by
  have h : (s.setV VF b).v = (s'.setV VF b).v := by
    refine Vector.ext fun k hk => ?_
    by_cases hr : (⟨k, hk⟩ : Reg) = VF
    · exact (congrArg (State.getV _) hr).trans ((getV_setV_same s VF b).trans
        ((getV_setV_same s' VF b).symm.trans (congrArg (State.getV _) hr.symm)))
    · exact (getV_setV_other s b hr).trans ((hv _ hr).trans (getV_setV_other s' b hr).symm)
  calc s.setV VF b = { s with v := (s'.setV VF b).v } := by rw [← h]; rfl
    _ = s'.setV VF b := by rw [← hrest]; rfl

theorem blanks_VF (b : Byte) : Blanks (State.setV · VF b) where
  reads _ := ⟨rfl, rfl, rfl, rfl, rfl, rfl⟩
  absorbs u s := by
    cases u
    case setV x c =>
      refine setV_VF_congr (fun r hr => ?_) rfl
      simp only [Update.run, getV_setV, if_neg hr]
    case loadV bs =>
      refine setV_VF_congr (fun r hr => ?_) rfl
      simp only [Update.run, getV_loadV, getV_setV, if_neg hr]
    all_goals refine setV_VF_congr (fun r hr => getV_setV_other s b hr) rfl

/-! ### What follows for the timers, the display, the inputs and VF -/

variable {s t : State} {i : Instr}

/-- An instruction that neither reads nor writes what `blank` sets behaves the same after it. -/
theorem exec_blank {blank : State → State} (hb : Blanks blank) (hidem : blank (blank s) = blank s)
    (hreads : SameReads s (blank s) i) (hframe : ∀ t', exec i (blank s) = .next t' → blank t' = t')
    (h : exec i s = .next t) : exec i (blank s) = .next (blank t) := by
  obtain ⟨t', h', ht⟩ := hb.exec_agrees hidem.symm hreads h
  rw [ht, hframe t' h', h']

theorem dt_notMem_writtenParts (hi : ∀ x, i ≠ .ldDTVx x) : Part.dt ∉ writtenParts i := by
  cases i
  case ldDTVx x => exact absurd rfl (hi x)
  all_goals simp [writtenParts]

theorem st_notMem_writtenParts (hi : ∀ x, i ≠ .ldSTVx x) : Part.st ∉ writtenParts i := by
  cases i
  case ldSTVx x => exact absurd rfl (hi x)
  all_goals simp [writtenParts]

theorem screen_notMem_writtenParts (hcls : i ≠ .cls) (hdrw : ∀ x y n, i ≠ .drw x y n) :
    Part.display ∉ writtenParts i ∧ Part.dirty ∉ writtenParts i := by
  cases i
  case cls => exact absurd rfl hcls
  case drw x y n => exact absurd rfl (hdrw x y n)
  all_goals simp [writtenParts]

theorem sameReads_setDT (hi : ∀ x, i ≠ .ldVxDT x) (b : Byte) : SameReads s (s.setDT b) i := by
  refine ⟨fun _ _ => rfl, ?_⟩
  cases i
  case ldVxDT x => exact absurd rfl (hi x)
  all_goals trivial

theorem sameReads_setST (b : Byte) : SameReads s (s.setST b) i := by
  refine ⟨fun _ _ => rfl, ?_⟩
  cases i <;> trivial

/-- Settles O57: the frames of DT and ST, and that blanking either out changes nothing an instruction but Fx07 reads. -/
theorem onlyTimerInstructionsUseTimers : Obligations.OnlyTimerInstructionsUseTimers := by
  unfold Obligations.OnlyTimerInstructionsUseTimers
  intro i s t h
  constructor
  · intro hwrite
    have hdt : ∀ {s t}, exec i s = .next t → t.dt = s.dt := fun h =>
      exec_onlyChanges h .dt (dt_notMem_writtenParts hwrite)
    refine ⟨hdt h, fun hread b => ?_⟩
    refine exec_blank (blanks_dt b) rfl (sameReads_setDT hread b) (fun t' h' => ?_) h
    exact congrArg (fun c => { t' with dt := c }) (hdt h').symm
  · intro hwrite
    have hst : ∀ {s t}, exec i s = .next t → t.st = s.st := fun h =>
      exec_onlyChanges h .st (st_notMem_writtenParts hwrite)
    refine ⟨hst h, fun b => ?_⟩
    refine exec_blank (blanks_st b) rfl (sameReads_setST b) (fun t' h' => ?_) h
    exact congrArg (fun c => { t' with st := c }) (hst h').symm

theorem sameReads_withScreen (hi : ∀ x y n, i ≠ .drw x y n) (d : Vector Row 32) (b : Bool) :
    SameReads s (s.withScreen d b) i := by
  refine ⟨fun _ _ => rfl, ?_⟩
  cases i
  case drw x y n => exact absurd rfl (hi x y n)
  all_goals trivial

/-- Settles O53: the frames of the display and of `dirty`, and that only Dxyn reads what blanking them out changes. -/
theorem onlyClearAndDrawTouchTheDisplay : Obligations.OnlyClearAndDrawTouchTheDisplay := by
  unfold Obligations.OnlyClearAndDrawTouchTheDisplay
  intro i s t hcls hdrw h
  obtain ⟨hdisplayOut, hdirtyOut⟩ := screen_notMem_writtenParts hcls hdrw
  have hdisplay : ∀ {s t}, exec i s = .next t → t.display = s.display := fun h => exec_onlyChanges h .display hdisplayOut
  have hdirty : ∀ {s t}, exec i s = .next t → t.dirty = s.dirty := fun h => exec_onlyChanges h .dirty hdirtyOut
  refine ⟨hdisplay h, hdirty h, fun d b => ?_⟩
  refine exec_blank (blanks_screen d b) rfl (sameReads_withScreen hdrw d b) (fun t' h' => ?_) h
  have hd : t'.display = d := hdisplay h'
  have hb : t'.dirty = b := hdirty h'
  rw [← hd, ← hb]
  rfl

theorem sameReads_withKeys (hskp : ∀ x, i ≠ .skp x) (hsknp : ∀ x, i ≠ .sknp x) (hwait : ∀ x, i ≠ .ldVxK x) (keys : Word) :
    SameReads s (s.withKeys keys) i := by
  refine ⟨fun _ _ => rfl, ?_⟩
  cases i
  case skp x => exact absurd rfl (hskp x)
  case sknp x => exact absurd rfl (hsknp x)
  case ldVxK x => exact absurd rfl (hwait x)
  all_goals trivial

theorem sameReads_withRnd (hi : ∀ x nn, i ≠ .rnd x nn) (rnd : Byte) : SameReads s (s.withRnd rnd) i := by
  refine ⟨fun _ _ => rfl, ?_⟩
  cases i
  case rnd x nn => exact absurd rfl (hi x nn)
  all_goals trivial

/-- Settles O60: no instruction writes `ctx`, and only the four named read the keys or the random byte in it. -/
theorem inputsReachOnlyTheirInstructions : Obligations.InputsReachOnlyTheirInstructions := by
  unfold Obligations.InputsReachOnlyTheirInstructions
  intro i s t keys rnd h
  have hctx : ∀ {s t}, exec i s = .next t → t.ctx = s.ctx := fun h =>
    exec_onlyChanges h .ctx (ownPart_notMem_writtenParts i (by simp))
  constructor
  · intro hskp hsknp hwait
    refine exec_blank (blanks_keys keys) rfl (sameReads_withKeys hskp hsknp hwait keys) (fun t' h' => ?_) h
    have hkeys : t'.ctx.keys = keys := congrArg StepContext.keys (hctx h')
    rw [← hkeys]
    rfl
  · intro hrnd
    refine exec_blank (blanks_rnd rnd) rfl (sameReads_withRnd hrnd rnd) (fun t' h' => ?_) h
    have hbyte : t'.ctx.rnd = rnd := congrArg StepContext.rnd (hctx h')
    rw [← hbyte]
    rfl

theorem sameReads_setV_VF (hi : VF ∉ readsRegs i) (b : Byte) : SameReads s (s.setV VF b) i := by
  refine ⟨fun r hr => getV_setV_other s b fun hVF => hi (hVF ▸ hr), ?_⟩
  cases i <;> trivial

/-- Settles O36: the states with VF = b and with the old VF agree but for VF, and the instruction reads nothing else of it. -/
theorem noImplicitReadOfVF : Obligations.NoImplicitReadOfVF := by
  unfold Obligations.NoImplicitReadOfVF
  intro i s t b hVF h
  have hs : s.setV VF 0 = (s.setV VF b).setV VF 0 := setV_VF_congr (fun r hr => (getV_setV_other s b hr).symm) rfl
  obtain ⟨u, hu, ht⟩ := (blanks_VF 0).exec_agrees hs (sameReads_setV_VF hVF b) h
  exact ⟨u, hu, ht.symm⟩

end Sys2Proof.Machine
end

section
/-! PROOFS. The step: the fetch, when a step exists and what it keeps, fatal steps, the host's phase, and the invariant
(40_pipeline.md, 60_exceptions.md). -/

namespace Sys2Proof.Machine

variable {s t : State}

/-! ### The invariant's parts under an execute phase -/

/-- A guarded store keeps the canonical form: in range by `wf_storeBytes`, else nothing is stored. -/
theorem wf_guardRange_store {base len : Nat} {bs : List Byte} (hlen : bs.length = len) (hpos : len ≠ 0)
    (hm : s.mem.wf = true) : (s.guardRange base len (s.store base bs)).mem.wf = true := by
  rcases guardRange_cases s base len (s.store base bs) with ⟨hrange, h⟩ | ⟨-, -, h⟩
  · rw [h, store_mem]
    exact wf_storeBytes (by omega) hm
  · rw [h]; exact hm

/-- An instruction keeps memory canonical (20_memory.md R38). -/
theorem exec_wf {i : Instr} (h : exec i s = .next t) (hm : s.mem.wf = true) : t.mem.wf = true := by
  by_cases hbcd : ∃ x, i = .ldB x
  · obtain ⟨x, rfl⟩ := hbcd
    obtain rfl := Host.Outcome.next.inj h
    exact wf_guardRange_store (length_bcdDigits _) (by decide) hm
  by_cases hstore : ∃ x, i = .storeRegs x
  · obtain ⟨x, rfl⟩ := hstore
    obtain rfl := Host.Outcome.next.inj h
    exact wf_guardRange_store (length_regsUpTo s x) (Nat.succ_ne_zero _) hm
  rw [exec_leaves_mem h (not_exists.mp hbcd) (not_exists.mp hstore)]
  exact hm

theorem iAddr_le (s : State) : s.iAddr ≤ 0xFFFF := Nat.le_of_lt_succ s.ireg.isLt

/-- The record of an access at I beyond memory, by an instruction that touches memory. -/
theorem explained_memoryOutOfRange {i : Instr} (hi : s.ctx.word.map decodeWord = some i) (htouch : touchesMemory i = true) :
    (s.fatalRecord .memoryOutOfRange (max s.iAddr 4096)).Explained := by
  refine ⟨le_max_right _ _, max_le (iAddr_le s) (by decide), fun w hw => ?_⟩
  rw [fatalRecord_word] at hw
  rw [hw, Option.map_some, Option.some.injEq] at hi
  rw [hi, htouch]

theorem guardRange_record {i : Instr} {len : Nat} {done : State} {r : FatalRecord} (hi : s.ctx.word.map decodeWord = some i)
    (htouch : len ≠ 0 → touchesMemory i = true) (hrun : s.halted = none)
    (hr : (s.guardRange s.iAddr len done).halted = some r) (hdone : done.halted = s.halted) : r.Explained := by
  rcases guardRange_cases s s.iAddr len done with ⟨-, h⟩ | ⟨hlen, -, h⟩
  · rw [h, hdone, hrun] at hr; cases hr
  · rw [h] at hr
    obtain rfl := Option.some.inj hr
    exact explained_memoryOutOfRange hi (htouch hlen)

theorem keyTest_record {x : Reg} {down : Bool} {r : FatalRecord}
    (hi : s.ctx.word.map decodeWord = some (.skp x) ∨ s.ctx.word.map decodeWord = some (.sknp x))
    (hrun : s.halted = none) (hr : (s.keyTest x down).halted = some r) : r.Explained := by
  rcases keyTest_cases s x down with ⟨hkey, h⟩ | ⟨-, h⟩
  · rw [h] at hr
    obtain rfl := Option.some.inj hr
    exact ⟨hkey, Nat.le_of_lt_succ (s.getV x).isLt, x, hi⟩
  · rw [h, skipIf_halted, hrun] at hr; cases hr

/-- The record an instruction leaves is one of R142 for it. -/
theorem exec_record {i : Instr} {r : FatalRecord} (h : exec i s = .next t) (hi : s.ctx.word.map decodeWord = some i)
    (hrun : s.halted = none) (hr : t.halted = some r) : r.Explained := by
  by_cases hpart : Part.halted ∈ writtenParts i
  case neg =>
    have hkept : t.halted = s.halted := exec_onlyChanges h .halted hpart
    rw [hkept, hrun] at hr
    cases hr
  cases i <;> obtain rfl := Host.Outcome.next.inj h
  case ret =>
    split at hr
    · obtain rfl := Option.some.inj hr; exact ⟨rfl, hi⟩
    · rw [pop_halted, setPc_halted, hrun] at hr; cases hr
  case call nnn =>
    split at hr
    · rw [setPc_halted, push_halted, hrun] at hr; cases hr
    · obtain rfl := Option.some.inj hr; exact ⟨rfl, nnn, hi⟩
  case skp => exact keyTest_record (.inl hi) hrun hr
  case sknp => exact keyTest_record (.inr hi) hrun hr
  case drw x y n =>
    refine guardRange_record hi (fun hlen => ?_) hrun hr rfl
    exact bne_iff_ne.mpr fun h0 => hlen (congrArg BitVec.toNat h0)
  case ldB | storeRegs | loadRegs => exact guardRange_record hi (fun _ => rfl) hrun hr rfl
  all_goals simp [writtenParts] at hpart

/-! ### The invariant under a step -/

/-- The invariant depends on memory, sp, `halted` and the result alone. -/
theorem Inv.congr (h : Inv s) (hmem : t.mem = s.mem) (hsp : t.sp = s.sp) (hhalted : t.halted = s.halted)
    (hresult : t.result = s.result) : Inv t := by
  obtain ⟨hmemory, hstack, hagree, hrecord⟩ := h
  exact ⟨hmem ▸ hmemory, hsp ▸ hstack, by rw [hhalted, hresult]; exact hagree, by rw [hhalted]; exact hrecord⟩

/-- After a step `halted` and the result agree. -/
theorem stepWith_halted_iff {keys : Word} {rnd : Byte} (h : stepWith keys rnd s = .next t) (r : FatalRecord) :
    t.halted = some r ↔ t.result = some (.fatal r) := by
  rcases stepEndsWithOneOfThreeResults s t keys rnd h with ⟨hres, hhalt⟩ | ⟨hres, hhalt, -⟩ | ⟨q, hres, hhalt⟩ <;>
    simp [hres, hhalt]

/-- `step(keys, rnd)` keeps the invariant. -/
theorem stepWith_keeps_inv {keys : Word} {rnd : Byte} (hinv : Inv s) (h : stepWith keys rnd s = .next t) : Inv t := by
  rcases stepWith_cases s keys rnd with ⟨r, -, hstop⟩ | ⟨-, hout, hfetch⟩ | ⟨hrun, -, hexec⟩
  · rw [hstop] at h; cases h
  · have hagree := stepWith_halted_iff h
    obtain rfl := Host.Outcome.next.inj (hfetch.symm.trans h)
    refine ⟨hinv.memory, hinv.stack, hagree, fun r hr => ?_⟩
    obtain rfl := Option.some.inj hr
    have hpc : s.pc.toNat < 65536 := s.pc.isLt
    exact ⟨le_max_right _ _, max_le (by omega) (by decide), nofun⟩
  · have hphase := hexec.symm.trans h
    exact ⟨exec_wf hphase hinv.memory, exec_sp_le hphase hinv.stack, stepWith_halted_iff h,
      fun r hr => exec_record hphase rfl hrun hr⟩

/-- Settles O12: `step(keys, rnd)` keeps the invariant, and the turn around it writes none of the parts it speaks of. -/
theorem stepKeepsInvariant : Obligations.StepKeepsInvariant := by
  unfold Obligations.StepKeepsInvariant
  intro s t hinv h
  obtain ⟨u, hstep, rfl⟩ := step_eq_next s h
  have hstart : Inv s.consumeInput := hinv.congr rfl rfl rfl rfl
  exact (stepWith_keeps_inv hstart hstep).congr (hostPhase_mem u _) (hostPhase_sp u _) (hostPhase_halted u _)
    (hostPhase_result u _)

/-- Settles O14: font and image are stored in range, so memory is canonical; the other parts are those of `State.reset`. -/
theorem invariantHoldsAfterAnyImage : Obligations.InvariantHoldsAfterAnyImage := by
  unfold Obligations.InvariantHoldsAfterAnyImage
  intro c font image
  have hfont : 0 + font.toList.length ≤ 4096 := by rw [Vector.length_toList]; decide
  have himage : 0x200 + (image.take 3584).length ≤ 4096 := by rw [List.length_take]; omega
  exact ⟨wf_storeBytes himage (wf_storeBytes hfont wf_reset), Nat.zero_le 16, fun _ => ⟨nofun, nofun⟩,
    fun _ hr => nomatch hr⟩

/-- Settles O13: State.reset is a reset with an empty image. -/
theorem invariantHoldsAtReset : Obligations.InvariantHoldsAtReset := by
  unfold Obligations.InvariantHoldsAtReset
  rw [reset_eq_resetWith]
  exact invariantHoldsAfterAnyImage Config.default Config.font []

/-! ### When a step exists -/

theorem stepWith_of_halted {r : FatalRecord} (h : s.halted = some r) (keys : Word) (rnd : Byte) :
    stepWith keys rnd s = .fault (.halted r) := by
  unfold stepWith
  rw [h]

theorem step_of_halted {r : FatalRecord} (h : s.halted = some r) : step s = .fault (.halted r) := by
  unfold step
  rw [stepWith_of_halted (s := s.consumeInput) h]

theorem step_of_stepWith_next {u : State} (h : stepWith s.nextInput.keys s.nextInput.rnd s.consumeInput = .next u) :
    step s = .next (u.hostPhase s.nextInput) := by
  unfold step
  rw [h]

/-- A running machine takes the step: the failed fetch and every instruction answer a next state. -/
theorem stepWith_of_running (h : s.halted = none) (keys : Word) (rnd : Byte) : ∃ t, stepWith keys rnd s = .next t := by
  rcases stepWith_cases s keys rnd with ⟨r, hhalted, -⟩ | ⟨-, -, hfetch⟩ | ⟨-, -, hexec⟩
  · rw [h] at hhalted; cases hhalted
  · exact ⟨_, hfetch⟩
  · rw [hexec]; exact exec_answers_next _ _

/-- Settles O9: `step`, `tick` and `stepWith` answer the fault; `present` reads the rows whatever `halted` is. -/
theorem haltedMachineIsStuck : Obligations.HaltedMachineIsStuck := by
  unfold Obligations.HaltedMachineIsStuck
  intro s r h
  have htick : tick s = .fault (.halted r) := by unfold tick; rw [h]
  exact ⟨step_of_halted h, htick, stepWith_of_halted h, rfl⟩

/-- Settles O10: a running machine steps (`stepWith_of_running`), a halted one answers the fault. -/
theorem runningMachineAlwaysSteps : Obligations.RunningMachineAlwaysSteps := by
  unfold Obligations.RunningMachineAlwaysSteps
  intro s
  constructor
  · intro hrun
    obtain ⟨u, hu⟩ := stepWith_of_running (s := s.consumeInput) hrun s.nextInput.keys s.nextInput.rnd
    exact ⟨_, step_of_stepWith_next hu⟩
  · rintro ⟨t, h⟩
    cases hhalted : s.halted with
    | none => rfl
    | some r => rw [step_of_halted hhalted] at h; cases h

/-! ### The fetch and the decoded instruction -/

section
variable (s)

theorem onlyChanges_beginStep (keys : Word) (rnd : Byte) : OnlyChanges [.ctx, .result] s (s.beginStep keys rnd) := by
  intro p hp
  cases p
  case ctx | result => simp at hp
  case registers | memory => exact fun _ => rfl
  all_goals rfl

theorem onlyChanges_latchWord (w : Word) : OnlyChanges [.pc, .ctx] s (s.latchWord w) := by
  intro p hp
  cases p
  case pc | ctx => simp at hp
  case registers | memory => exact fun _ => rfl
  all_goals rfl

end

section
variable (s)

/-- A failed fetch leaves pc; the record and the step's own fields are all it writes (20_memory.md R33). -/
theorem onlyChanges_failedFetch (keys : Word) (rnd : Byte) (n : Nat) :
    OnlyChanges [.ctx, .result, .halted, .result] s ((s.beginStep keys rnd).raiseFatal .memoryOutOfRange n) :=
  (onlyChanges_beginStep s keys rnd).andThen (onlyChanges_raiseFatal _ _ _)

end

/-- Settles O6: the word at pc is the instruction's, so it decodes to the instruction (`decodeWord_encode`) and `stepWith` executes
it. -/
theorem stepRunsDecodedInstruction : Obligations.StepRunsDecodedInstruction := by
  unfold Obligations.StepRunsDecodedInstruction
  intro s i hrun hpc hwf hhi hlo
  have hword : loadWord s.mem s.pc.toNat = encode i := by
    rw [← wordOfBytes_highByte_lowByte (encode i), ← hhi, ← hlo]
    rfl
  have hstep := stepWith_runs_word_at_pc s.consumeInput s.nextInput.keys s.nextInput.rnd hrun hpc
  rw [consumeInput_mem, consumeInput_pc, hword, decodeWord_encode hwf] at hstep
  unfold step
  rw [hstep]
  rfl

/-- Settles O7: a word that lies in memory is fetched (`fetch_ok`), whatever the parity of pc. -/
theorem fetchReadsBigEndianWordAtAnyPc : Obligations.FetchReadsBigEndianWordAtAnyPc := by
  unfold Obligations.FetchReadsBigEndianWordAtAnyPc
  exact fun s hpc => ⟨_, _, fetch_ok s hpc, toNat_wordOfBytes _ _, toNat_add_two s.pc, rfl, onlyChanges_latchWord s _⟩

/-- Settles O8: the fetch fails before the step has written more than `ctx` and the result. -/
theorem fetchBeyondMemoryIsFatal : Obligations.FetchBeyondMemoryIsFatal := by
  unfold Obligations.FetchBeyondMemoryIsFatal
  intro s keys rnd hrun hpc
  rcases stepWith_cases s keys rnd with ⟨r, hhalted, -⟩ | ⟨-, -, hfetch⟩ | ⟨-, hin, -⟩
  · rw [hrun] at hhalted; cases hhalted
  · have hinfo : max s.pc.toNat 4096 = if s.pc.toNat = 4095 then 4096 else s.pc.toNat := by split <;> omega
    refine ⟨_, hfetch, ?_, fun r => (stepWith_halted_iff hfetch r).mp, ?_⟩
    · rw [← hinfo]; rfl
    · exact (onlyChanges_failedFetch s keys rnd _).mono (by simp)
  · omega

/-- Settles O17: the step writes `ctx` and the result before it reads them, so both steps begin in the same state. -/
theorem stepForgetsLastStep : Obligations.StepForgetsLastStep := by
  unfold Obligations.StepForgetsLastStep
  intro s ctx result
  have hbegin : ∀ keys rnd,
      (State.consumeInput { s with ctx := ctx, result := result }).beginStep keys rnd = s.consumeInput.beginStep keys rnd :=
    fun _ _ => rfl
  unfold step stepWith
  rw [hbegin]
  rfl

/-! ### What every step keeps, and a fatal one -/

/-- A step samples the inputs, latches A, and leaves the parameters and the host's list alone. -/
theorem stepWith_keeps_host {keys : Word} {rnd : Byte} (h : stepWith keys rnd s = .next t) :
    t.inputs = s.inputs ∧ t.seq = s.seq ∧ t.config = s.config ∧
      t.ctx.keys = keys ∧ t.ctx.rnd = rnd ∧ t.ctx.addr = s.pc := by
  rcases stepWith_cases s keys rnd with ⟨r, -, hstop⟩ | ⟨-, -, hfetch⟩ | ⟨-, -, hexec⟩
  · rw [hstop] at h; cases h
  · obtain rfl := Host.Outcome.next.inj (hfetch.symm.trans h)
    exact ⟨rfl, rfl, rfl, rfl, rfl, rfl⟩
  · have hphase := hexec.symm.trans h
    have hinputs := exec_onlyChanges hphase .inputs (ownPart_notMem_writtenParts _ (by simp))
    have hseq := exec_onlyChanges hphase .seq (ownPart_notMem_writtenParts _ (by simp))
    have hconfig := exec_onlyChanges hphase .config (ownPart_notMem_writtenParts _ (by simp))
    have hctx : t.ctx = _ := exec_onlyChanges hphase .ctx (ownPart_notMem_writtenParts _ (by simp))
    rw [hctx]
    exact ⟨hinputs, hseq, hconfig, rfl, rfl, rfl⟩

/-- Settles O19: the turn takes the inputs off the list; the step and the host's phase leave the rest (`stepWith_keeps_host`). -/
theorem stepConsumesOneInputAndKeepsConfig : Obligations.StepConsumesOneInputAndKeepsConfig := by
  unfold Obligations.StepConsumesOneInputAndKeepsConfig
  intro s t h
  obtain ⟨u, hstep, rfl⟩ := step_eq_next s h
  simpa using stepWith_keeps_host hstep

/-- Settles O20: a fatal step is a failed fetch, or an execute phase whose only act is to raise the condition
(`exec_result_cases`). -/
theorem fatalStepWritesNothingElse : Obligations.FatalStepWritesNothingElse := by
  unfold Obligations.FatalStepWritesNothingElse
  intro s t keys rnd r h hr
  rcases stepWith_cases s keys rnd with ⟨r, -, hstop⟩ | ⟨-, -, hfetch⟩ | ⟨hrun, -, hexec⟩
  · rw [hstop] at h; cases h
  · obtain rfl := Host.Outcome.next.inj (hfetch.symm.trans h)
    obtain rfl := Option.some.inj hr
    exact ⟨rfl, fun _ => rfl, nofun, (onlyChanges_failedFetch s keys rnd _).mono (by simp)⟩
  · rcases exec_result_cases (hexec.symm.trans h) with ⟨-, hkept⟩ | ⟨-, hkept, -⟩ | ⟨kind, info, rfl⟩
    · exact nomatch hr.symm.trans (hkept.trans hrun)
    · exact nomatch hr.symm.trans (hkept.trans hrun)
    · obtain rfl := Option.some.inj hr
      refine ⟨rfl, nofun, fun w hw => ⟨rfl, (Option.some.inj hw).symm⟩, ?_⟩
      exact ((onlyChanges_fetched s keys rnd _).andThen (onlyChanges_raiseFatal _ kind info)).mono (by simp)

/-! ### The host's phase and the ticks -/

theorem tickTimerTimes_eq_iterate (mode : TimerUnderflow) (b : Byte) (k : Nat) :
    tickTimerTimes mode b k = (tickTimer mode)^[k] b := by
  induction k with
  | zero => rfl
  | succ k ih => rw [tickTimerTimes, ih, Function.iterate_succ_apply']

theorem onlyChanges_hostPhase (s : State) (h : HostInput) : OnlyChanges [.dt, .st, .dirty] s (s.hostPhase h) := by
  intro p hp
  cases p
  case dt | st | dirty => simp at hp
  case registers => exact getV_of_v (hostPhase_v s h)
  case memory => exact byteAt_of_mem (hostPhase_mem s h)
  all_goals simp [Unchanged]

/-- Settles O18: the ticks of a running machine are iterations of one tick, and the frames are those of the two operations. -/
theorem hostPhaseTicksThenPresents : Obligations.HostPhaseTicksThenPresents := by
  unfold Obligations.HostPhaseTicksThenPresents
  intro s h
  refine ⟨fun hrun => ?_, fun hhalted => ?_, hostPhase_dirty s h, onlyChanges_hostPhase s h, rfl, rfl,
    onlyChanges_setDirty s false⟩
  · simp only [hostPhase_dt, hostPhase_st, hrun, Option.isNone_none, if_true, tickTimerTimes_eq_iterate, and_self]
  · have hnot : ¬ s.halted.isNone = true := fun h => hhalted (Option.isNone_iff_eq_none.mp h)
    rw [hostPhase_dt, hostPhase_st, if_neg hnot, if_neg hnot]
    exact ⟨rfl, rfl⟩

theorem onlyChanges_tickTimers (s : State) : OnlyChanges [.dt, .st] s s.tickTimers := by
  intro p hp
  cases p
  case dt | st => simp at hp
  case registers | memory => exact fun _ => rfl
  all_goals rfl

theorem toNat_tickTimer_wrapFromZero (b : Byte) : (tickTimer .wrapFromZero b).toNat = (b.toNat + 255) % 256 :=
  BitVec.toNat_add b 255

theorem toNat_tickTimer_reloadOnReachZero (b : Byte) :
    (tickTimer .reloadOnReachZero b).toNat = if b.toNat ≥ 2 then b.toNat - 1 else 0xFF := by
  change (if b.toNat ≥ 2 then b - 1 else 0xFF).toNat = _
  split
  · exact BitVec.toNat_sub_of_le (x := b) (y := 1) (BitVec.le_def.mpr (Nat.le_of_succ_le ‹_›))
  · rfl

/-- Settles O58: a tick of a running machine is `tickTimer` of both timers, in each mode the number stated. -/
theorem tickFollowsUnderflowMode : Obligations.TickFollowsUnderflowMode := by
  unfold Obligations.TickFollowsUnderflowMode
  intro s hrun
  have htick : tick s = .next s.tickTimers := by unfold tick; rw [hrun]
  refine ⟨_, htick, onlyChanges_tickTimers s, fun hmode => ?_, fun hmode => ?_, fun hmode => ?_⟩ <;>
    simp only [State.tickTimers, hmode, toNat_tickTimer_saturate, toNat_tickTimer_wrapFromZero,
      toNat_tickTimer_reloadOnReachZero, and_self]

end Sys2Proof.Machine
end

section
/-! PROOFS. JP V0, and a CALL with the RET that matches it (41_control.md R71, R73, R78). -/

namespace Sys2Proof.Machine

/-- Settles O25: the sum of a 12-bit immediate and a byte fits 16 bits, so no carry is lost. -/
theorem jumpV0AddsV0ToTarget : Obligations.JumpV0AddsV0ToTarget := by
  unfold Obligations.JumpV0AddsV0ToTarget
  intro s nnn
  have hsum : (jumpTarget nnn (s.getV V0)).toNat = nnn.toNat + (s.getV V0).toNat := by
    have hnnn : nnn.toNat < 4096 := nnn.isLt
    have hbyte : (s.getV V0).toNat < 256 := (s.getV V0).isLt
    rw [jumpTarget, BitVec.toNat_add, toNat_addrOfImm, toNat_wordOfByte]
    omega
  exact ⟨_, exec_jpV0 s nnn, hsum, onlyChanges_setPc s _⟩

/-- A stack entry is a function of the stack alone. -/
theorem getS_of_stack {s t : State} (h : t.stack = s.stack) (k : Nat) : t.getS k = s.getS k := by
  unfold State.getS
  rw [h]

/-- Settles O27: CALL has put the return address on top of the entries it found (`getS_push`), where RET reads it. -/
theorem callThenRetReturns : Obligations.CallThenRetReturns := by
  unfold Obligations.CallThenRetReturns
  intro s t u nnn hroom hcall hsp hstack
  rw [exec_call, if_pos hroom] at hcall
  obtain rfl := Host.Outcome.next.inj hcall
  have husp : u.sp = s.sp + 1 := hsp
  have hentry : ∀ k, u.getS k = if k = s.sp then s.pc else s.getS k := fun k =>
    (getS_of_stack hstack k).trans (getS_push s s.pc hroom k)
  have hret : exec .ret u = .next (u.setPc (u.getS (u.sp - 1))).pop := by rw [exec_ret, if_neg (by omega)]
  refine ⟨_, hret, ?_, ?_, fun k hk => ?_⟩
  · rw [pop_pc, setPc_pc, husp, Nat.add_sub_cancel, hentry, if_pos rfl]
  · rw [pop_sp, setPc_sp, husp, Nat.add_sub_cancel]
  · exact (hentry k).trans (if_neg (Nat.ne_of_lt hk))

end Sys2Proof.Machine
end

section
/-! PROOFS. Memory as a canonical list, the index arithmetic and the memory transfers (20_memory.md R32 to R42, 43_index_memory.md). -/

namespace Sys2Proof.Machine

/-! ### The canonical form is unique -/

/-- A canonical memory differs from the reset contents at its first cell, so no memory that starts higher reads the same there. -/
theorem not_lt_head_of_get_eq {k lo : Nat} {c : Byte} {m m' : Memory} (hm : Memory.wfFrom k ((k, c) :: m) = true)
    (hm' : Memory.wfFrom lo m' = true) (h : Memory.get ((k, c) :: m) k = m'.get k) : ¬ k < lo := by
  obtain ⟨-, -, hc, -⟩ := wfFrom_cons.mp hm
  intro hlt
  rw [get_cons, if_pos rfl, get_of_wfFrom hm' hlt] at h
  exact hc h

/-- A canonical memory is canonical from its first cell on. -/
theorem wfFrom_head {lo k : Nat} {c : Byte} {m : Memory} (h : Memory.wfFrom lo ((k, c) :: m) = true) :
    Memory.wfFrom k ((k, c) :: m) = true := by
  obtain ⟨-, hrest⟩ := wfFrom_cons.mp h
  exact wfFrom_cons.mpr ⟨le_rfl, hrest⟩

/-- Two canonical memories with the same bytes have the same cells, compared cell by cell. -/
theorem eq_of_wfFrom_of_get_eq : ∀ {m m' : Memory} {lo : Nat}, Memory.wfFrom lo m = true → Memory.wfFrom lo m' = true →
    (∀ a, m.get a = m'.get a) → m = m'
  | [], [], _, _, _, _ => rfl
  | [], (k, _) :: _, _, _, hm', h =>
    absurd (Nat.lt_succ_self k) (not_lt_head_of_get_eq (lo := k + 1) (wfFrom_head hm') rfl (h k).symm)
  | (k, _) :: _, [], _, hm, _, h =>
    absurd (Nat.lt_succ_self k) (not_lt_head_of_get_eq (lo := k + 1) (wfFrom_head hm) rfl (h k))
  | (k, c) :: m, (k', c') :: m', _, hm, hm', h => by
    obtain rfl : k = k' := Nat.le_antisymm
      (Nat.not_lt.mp (not_lt_head_of_get_eq (wfFrom_head hm') (wfFrom_head hm) (h k').symm))
      (Nat.not_lt.mp (not_lt_head_of_get_eq (wfFrom_head hm) (wfFrom_head hm') (h k)))
    obtain ⟨-, -, -, htail⟩ := wfFrom_cons.mp hm
    obtain ⟨-, -, -, htail'⟩ := wfFrom_cons.mp hm'
    have hc : c = c' := by simpa [get_cons] using h k
    have hrest : ∀ a, Memory.get m a = Memory.get m' a := fun a => by
      by_cases ha : a = k
      · rw [ha, get_of_wfFrom htail (Nat.lt_succ_self k), get_of_wfFrom htail' (Nat.lt_succ_self k)]
      · simpa [get_cons, ha] using h a
    rw [hc, eq_of_wfFrom_of_get_eq htail htail' hrest]

/-- Settles O46: `eq_of_wfFrom_of_get_eq` from address 0. -/
theorem canonicalMemoriesAreUnique : Obligations.CanonicalMemoriesAreUnique := by
  unfold Obligations.CanonicalMemoriesAreUnique
  exact fun _ _ => eq_of_wfFrom_of_get_eq

/-! ### Reads after a store -/

section
variable (s : State) {base : Nat} {bs : List Byte}

/-- The k-th byte stored stands at base + k. -/
theorem byteAt_store_add (hm : s.mem.wf = true) (hr : base + bs.length ≤ 4096) {k : Nat} (hk : k < bs.length) :
    (s.store base bs).byteAt (base + k) = bs.getD k 0 := by
  rw [byteAt_store s hm hr, if_pos (by omega), Nat.add_sub_cancel_left]

/-- A store leaves every byte outside its run. -/
theorem byteAt_store_outside (hm : s.mem.wf = true) (hr : base + bs.length ≤ 4096) {a : Nat}
    (ha : a < base ∨ base + bs.length ≤ a) : (s.store base bs).byteAt a = s.byteAt a := by
  rw [byteAt_store s hm hr, if_neg (by omega)]

end

/-- Settles O45: the two cases of a read after a store, and `wf_storeBytes`. -/
theorem readsSeeTheLastWrite : Obligations.ReadsSeeTheLastWrite := by
  unfold Obligations.ReadsSeeTheLastWrite
  exact fun s base bs hm hr => ⟨fun k hk => byteAt_store_add s hm hr hk, fun a ha => byteAt_store_outside s hm hr ha,
    wf_storeBytes hr hm⟩

/-! ### The index register -/

/-- The glyph's address fits 16 bits for either stride, so the sum of R112 is not reduced. -/
theorem toNat_glyphAddr (stride : FontStride) (digit : Byte) :
    (glyphAddr stride digit).toNat = digit.toNat * stride.bytes := by
  have hdigit : digit.toNat < 256 := digit.isLt
  have hstride : stride.bytes ≤ 5 := by cases stride <;> decide
  have hprod : digit.toNat * stride.bytes ≤ 255 * 5 := Nat.mul_le_mul (by omega) hstride
  rw [glyphAddr, BitVec.toNat_ofNat, Nat.mod_eq_of_lt (by omega)]

/-- Settles O38: both write I alone; the glyph's address is the digit times the stride (`toNat_glyphAddr`). -/
theorem indexArithmetic : Obligations.IndexArithmetic := by
  unfold Obligations.IndexArithmetic
  intro s x
  have hsum : (s.ireg + wordOfByte (s.getV x)).toNat = (s.ireg.toNat + (s.getV x).toNat) % 65536 := by
    rw [BitVec.toNat_add, toNat_wordOfByte]
  refine ⟨⟨_, exec_addI s x, hsum, onlyChanges_setI s _⟩,
    ⟨_, exec_ldF s x, onlyChanges_setI s _, fun hstride => ?_, fun hstride => ?_⟩⟩
  · rw [setI_ireg, toNat_glyphAddr, hstride]; rfl
  · rw [setI_ireg, toNat_glyphAddr, hstride]; exact Nat.mul_one _

/-! ### The transfers in range -/

/-- Settles O39: the bytes stored are the three digits, each below 256. -/
theorem bcdStoresDecimalDigits : Obligations.BcdStoresDecimalDigits := by
  unfold Obligations.BcdStoresDecimalDigits
  intro s x hm hr
  have hbyte : (s.getV x).toNat < 256 := (s.getV x).isLt
  have hdigit : ∀ k, k < 3 →
      (s.store s.iAddr (bcdDigits (s.getV x))).byteAt (s.iAddr + k) = (bcdDigits (s.getV x)).getD k 0 :=
    fun k hk => byteAt_store_add s hm hr hk
  refine ⟨_, exec_ldB_inRange s hr, ?_, ?_, ?_, fun a ha => byteAt_store_outside s hm hr ha, onlyChanges_store s _ _⟩
  · exact (congrArg BitVec.toNat (hdigit 0 (by decide))).trans (Nat.mod_eq_of_lt (by omega))
  · exact (congrArg BitVec.toNat (hdigit 1 (by decide))).trans (Nat.mod_eq_of_lt (by omega))
  · exact (congrArg BitVec.toNat (hdigit 2 (by decide))).trans (Nat.mod_eq_of_lt (by omega))

section
variable (s : State) {x : Reg}

/-- Fx55 in range leaves Vk at I + k (43_index_memory.md R114). -/
theorem byteAt_store_regsUpTo (hm : s.mem.wf = true) (hr : s.iAddr + (x.val + 1) ≤ 4096) {k : Reg} (hk : k ≤ x) :
    (s.store s.iAddr (s.regsUpTo x)).byteAt (s.iAddr + k.val) = s.getV k := by
  rw [byteAt_store_add s hm (by rwa [length_regsUpTo]) (by rw [length_regsUpTo]; exact Nat.lt_succ_of_le hk),
    getD_regsUpTo s x k hk]

/-- Fx65 with V0..Vx all below 4096 loads them from I (43_index_memory.md R115). -/
theorem exec_loadRegs_inRange (hr : s.iAddr + (x.val + 1) ≤ 4096) :
    exec (.loadRegs x) s = .next (s.loadV (loadBytes s.mem s.iAddr (x.val + 1))) := by
  rw [exec_loadRegs, guardRange_ok s _ (.inr hr)]

/-- Fx65 in range gives Vk the byte at I + k. -/
theorem getV_loadV_loadBytes {k : Reg} (hk : k ≤ x) :
    (s.loadV (loadBytes s.mem s.iAddr (x.val + 1))).getV k = s.byteAt (s.iAddr + k.val) := by
  have hlt : k.val < x.val + 1 := Nat.lt_succ_of_le hk
  rw [getV_loadV, length_loadBytes, if_pos hlt, getD_loadBytes _ _ _ _ hlt]
  rfl

end

/-- Settles O40: the bytes at I are the registers (`byteAt_store_regsUpTo`). -/
theorem storeRegistersWritesEachByte : Obligations.StoreRegistersWritesEachByte := by
  unfold Obligations.StoreRegistersWritesEachByte
  intro s x hm hr
  refine ⟨_, exec_storeRegs_inRange s hr, fun k hk => byteAt_store_regsUpTo s hm hr hk, fun a ha => ?_,
    onlyChanges_store s _ _⟩
  exact byteAt_store_outside s hm (by rwa [length_regsUpTo]) (by rwa [length_regsUpTo])

/-- Settles O41: the registers up to Vx are the bytes at I, those above it stay (`getV_loadV`). -/
theorem loadRegistersReadsEachByte : Obligations.LoadRegistersReadsEachByte := by
  unfold Obligations.LoadRegistersReadsEachByte
  intro s x hr
  refine ⟨_, exec_loadRegs_inRange s hr, fun k hk => getV_loadV_loadBytes s hk, fun k hk => ?_, onlyChanges_loadV s _⟩
  have hnot : ¬ k.val < x.val + 1 := Nat.not_lt.mpr hk
  rw [getV_loadV, length_loadBytes, if_neg hnot]

/-- Settles O43: what the load reads at I + k is what the store left there, which is Vk. -/
theorem storeThenLoadRestoresRegisters : Obligations.StoreThenLoadRestoresRegisters := by
  unfold Obligations.StoreThenLoadRestoresRegisters
  intro s t u x hm hr hstore hireg hbytes
  rw [exec_storeRegs_inRange s hr] at hstore
  obtain rfl := Host.Outcome.next.inj hstore
  have hI : u.iAddr = s.iAddr := congrArg BitVec.toNat hireg
  refine ⟨_, exec_loadRegs_inRange u (by rwa [hI]), fun k hk => ?_⟩
  have hlt : k.val < x.val + 1 := Nat.lt_succ_of_le hk
  rw [getV_loadV_loadBytes u hk, hI, hbytes _ (by omega) (by omega), byteAt_store_regsUpTo s hm hr hk]

/-! ### The transfers out of range -/

/-- An execute phase that is a guarded effect beyond 4096 raises MemoryOutOfRange with the lowest bad address and does nothing else
(20_memory.md R32, R34). -/
theorem fatallyHalts_of_guardRange {s done : State} {len : Nat} {o : Host.Outcome State Fault Refusal}
    (hexec : o = .next (s.guardRange s.iAddr len done)) (hlen : len ≠ 0) (hout : 4096 < s.iAddr + len) :
    ∃ t, o = .next t ∧ FatallyHalts .memoryOutOfRange (max s.iAddr 4096) s t :=
  ⟨_, hexec, by rw [guardRange_fatal s done hlen hout]; exact fatallyHalts_raiseFatal s _ _⟩

/-- Settles O42: the three transfers and the draw are guarded effects at I. -/
theorem outOfRangeTransfersAreFatal : Obligations.OutOfRangeTransfersAreFatal := by
  unfold Obligations.OutOfRangeTransfersAreFatal
  intro s x y n
  refine ⟨fatallyHalts_of_guardRange (exec_ldB s x) (by decide), fun hout => ⟨?_, ?_⟩, fun hn => ?_⟩
  · exact fatallyHalts_of_guardRange (exec_storeRegs s x) (Nat.succ_ne_zero _) hout
  · exact fatallyHalts_of_guardRange (exec_loadRegs s x) (Nat.succ_ne_zero _) hout
  · exact fatallyHalts_of_guardRange (exec_drw s x y n) fun h0 => hn (BitVec.eq_of_toNat_eq h0)

end Sys2Proof.Machine
end

section
/-! PROOFS. The frame of a draw, and two equal draws (44_display.md R122, R124, R127). -/

namespace Sys2Proof.Machine

/-- With no sprite row nothing is drawn and nothing is hit (44_display.md R122). -/
theorem drawSprite_zero (s : State) (x y : Reg) : s.drawSprite x y 0 = { rows := s.display, coll := false } := rfl

/-- Settles O50: the frame is that of `putCanvas`; with n = 0 the canvas put is the display itself. -/
theorem drawFrame : Obligations.DrawFrame := by
  unfold Obligations.DrawFrame
  intro s x y n hr
  refine ⟨_, exec_drw_inRange s x y n hr, rfl, regsOnly_setV (s.setDisplay _) VF _, onlyChanges_putCanvas s _, ?_⟩
  rintro rfl
  rw [drawSprite_zero]
  exact ⟨rfl, getV_putCanvas_VF s _⟩

/-! ### The second of two equal draws -/

/-- A pixel flipped twice, or not at all, is as it was. -/
theorem bool_eq_of_flipped_back : ∀ a b c : Bool, (c ≠ b ↔ b ≠ a) → c = a := by decide

/-- A sprite drawn again from the same I, memory and coordinates. -/
structure SameSprite (s t : State) (x y : Reg) : Prop where
  index  : t.ireg = s.ireg
  memory : t.mem = s.mem
  column : t.getV x = s.getV x
  row    : t.getV y = s.getV y

section
variable {s : State} {x y : Reg} {n : Nibble} {k : Canvas}

/-- A draw leaves a sprite's I, bytes and coordinates where neither coordinate is in VF, or VF keeps its value (R127). -/
theorem sameSprite_putCanvas (h : (x ≠ VF ∧ y ≠ VF) ∨ (s.putCanvas k).getV VF = s.getV VF) :
    SameSprite s (s.putCanvas k) x y := by
  have hother : ∀ r, r ≠ VF → (s.putCanvas k).getV r = s.getV r := fun r hr => getV_setV_other (s.setDisplay _) _ hr
  rcases h with ⟨hx, hy⟩ | hVF
  · exact ⟨rfl, rfl, hother x hx, hother y hy⟩
  · have hall : ∀ r, (s.putCanvas k).getV r = s.getV r := fun r => by
      by_cases hr : r = VF
      · rw [hr, hVF]
      · exact hother r hr
    exact ⟨rfl, rfl, hall x, hall y⟩

/-- A draw flips the target of every 1 bit. -/
theorem pixelOf_drawSprite_target {i j : Nat} (hi : i < n.toNat) (hj : j < 8)
    (hbit : (s.byteAt (s.iAddr + i)).getLsbD (7 - j) = true) :
    pixelOf (s.drawSprite x y n).rows (((s.getV y).toNat + i) % 32) (((s.getV x).toNat + j) % 64) =
      !pixelOf s.display (((s.getV y).toNat + i) % 32) (((s.getV x).toNat + j) % 64) := by
  refine Bool.eq_not.mpr ((pixelOf_drawSprite_ne_iff s x y n ?_ ?_).mpr ⟨i, j, hi, hj, hbit, rfl, rfl⟩)
  · exact Nat.mod_lt _ (by decide)
  · exact Nat.mod_lt _ (by decide)

variable {t : State} (hsame : SameSprite s t x y) (hdisplay : t.display = (s.drawSprite x y n).rows)
include hsame hdisplay

/-- The second of two equal draws flips the same pixels back (44_display.md R127). -/
theorem drawSprite_again_rows : (t.drawSprite x y n).rows = s.display := by
  obtain ⟨hindex, hmemory, hcolumn, hrow⟩ := hsame
  refine display_ext fun row col hr hc => ?_
  have hfirst := pixelOf_drawSprite_ne_iff s x y n hr hc
  have hsecond := pixelOf_drawSprite_ne_iff t x y n hr hc
  simp only [State.iAddr, State.byteAt, hindex, hmemory, hcolumn, hrow, hdisplay] at hfirst hsecond
  exact bool_eq_of_flipped_back _ _ _ (hsecond.trans hfirst.symm)

/-- The second of two equal draws collides exactly where a 1 bit's target was dark before the first (log 27). -/
theorem coll_drawSprite_again : (t.drawSprite x y n).coll = true ↔
    ∃ i j, i < n.toNat ∧ j < 8 ∧ (s.byteAt (s.iAddr + i)).getLsbD (7 - j) = true ∧
      pixelOf s.display (((s.getV y).toNat + i) % 32) (((s.getV x).toNat + j) % 64) = false := by
  obtain ⟨hindex, hmemory, hcolumn, hrow⟩ := hsame
  have hcoll := coll_drawSprite t x y n
  simp only [State.iAddr, State.byteAt, hindex, hmemory, hcolumn, hrow, hdisplay] at hcoll
  refine hcoll.trans (exists_congr fun i => exists_congr fun j => ?_)
  refine and_congr_right fun hi => and_congr_right fun hj => and_congr_right fun hbit => ?_
  rw [pixelOf_drawSprite_target hi hj hbit, Bool.not_eq_true']

end

/-- Settles O51: the first draw leaves the sprite (`sameSprite_putCanvas`), so the second flips the same pixels back and collides
where a target was dark. -/
theorem drawTwiceRestoresTheDisplay : Obligations.DrawTwiceRestoresTheDisplay := by
  unfold Obligations.DrawTwiceRestoresTheDisplay
  intro s t x y n hr hfirst hcond
  rw [exec_drw_inRange s x y n hr] at hfirst
  obtain rfl := Host.Outcome.next.inj hfirst
  have hsame := sameSprite_putCanvas hcond
  have hVF := (collisionFlag_eq_one_iff _).trans (coll_drawSprite_again hsame rfl)
  refine ⟨_, exec_drw_inRange _ x y n hr, drawSprite_again_rows hsame rfl, ?_, fun hdark hbit => ?_⟩
  · rw [getV_putCanvas_VF]; exact hVF
  · rw [getV_putCanvas_VF]
    obtain ⟨i, j, hi, hj, hbit⟩ := hbit
    refine hVF.mpr ⟨i, j, hi, hj, hbit, Bool.eq_false_iff.mpr fun hlit => ?_⟩
    have hhit := (coll_drawSprite s x y n).mpr ⟨i, j, hi, hj, hbit, hlit⟩
    rw [getV_putCanvas_VF, hhit] at hdark
    exact absurd hdark (by decide)

/-- Refutes O52: with every pixel lit the first draw of the font's glyph row 0xF0 at I = 0 clears the four targets, so the second
hits none (log 27). -/
theorem not_secondDrawAlwaysCollides : ¬ Obligations.SecondDrawAlwaysCollides := by
  unfold Obligations.SecondDrawAlwaysCollides
  intro h
  have hVF := h (State.reset.setDisplay (Vector.replicate 32 (BitVec.allOnes 64))) _ _ 0 1 1 (by decide) (by decide) (by decide)
    (exec_drw _ 0 1 1) (exec_drw _ 0 1 1) ⟨0, 4, by decide, by decide, by decide⟩
  exact absurd hVF (by decide)

end Sys2Proof.Machine
end
